-- ==== Sys2Proof/Word.lean ====
section
/-!
DEFINITION. The bit, byte and word types of the 93Cx6 engine.
-/

namespace Sys2Proof

/-- One bit of the wire, a level of a line: `true` is 1 is logic-high (20_memory.md R29, R31; decision D2). -/
abbrev Bit := Bool

/-- One byte of the model's own request record (Decode.lean); the engine itself handles no bytes (20_memory.md R26). -/
abbrev Byte := BitVec 8

/-- A word shifted in, and the accumulator `ACC`: at most 16 bits wide (10_state.md R16). For ORG 8 the
upper eight bits are 0. -/
abbrev Word := BitVec 16

/-- The word whose bit 0 is `b` and whose other bits are 0. -/
def Word.ofBit (b : Bit) : Word := (BitVec.ofBool b).setWidth 16

end Sys2Proof
end

