-- ==== Sys2Proof/Syntax.lean ====
section
/-!
DEFINITION. The nine host requests (00_scope.md R2, 30_encoding.md R51): what this hardware has for instructions.
-/

namespace Sys2Proof

/-- One constructor per request. The table's rows of one request differ only in the address width, which the
configuration fixes (log 1). Operand domains are decision D9: any integer for an address and a value; a count is
an integer here so that the inadmissible negative ones can be written down and refused (WellFormed.lean). -/
inductive Instr
  /-- `enable_write()`, 43_control_ops.md R75. -/
  | enableWrite
  /-- `disable_write()`, 43_control_ops.md R76. -/
  | disableWrite
  /-- `is_write_enabled()`, 43_control_ops.md R77. -/
  | isWriteEnabled
  /-- `erase_all()`, 43_control_ops.md R78. -/
  | eraseAll
  /-- `write_all(value)`, 43_control_ops.md R79. -/
  | writeAll (value : Int)
  /-- `erase(addr)`, 44_addressed_ops.md R81. -/
  | erase (addr : Int)
  /-- `write(addr, value)`, 44_addressed_ops.md R82. -/
  | write (addr : Int) (value : Int)
  /-- `read(addr)`, 44_addressed_ops.md R83. -/
  | read (addr : Int)
  /-- `read_sequential(addr, count)`, 44_addressed_ops.md R84. -/
  | readSequential (addr : Int) (count : Int)
deriving DecidableEq, Repr, Inhabited

end Sys2Proof
end

