-- ==== Sys2Proof/Config.lean ====
section
/-!
DEFINITION. What is fixed at construction (00_scope.md R5, 10_state.md R8 to R10), the configuration of the
reset state, and the free values.
-/

namespace Sys2Proof

/-- `MODEL` (10_state.md R8): the chip model, five values. -/
inductive Model
  | m46 | m56 | m66 | m76 | m86
deriving DecidableEq, Repr

/-- `ORG` (10_state.md R8): the word organization, two values. -/
inductive Organization
  | org8 | org16
deriving DecidableEq, Repr

/-- `GUARD_ORDER` (92_eei_decisions.md D7 and its parameter table): which of the latch guard and the address
validation of `erase` and `write` comes first. The spec's rule R74 is `latchFirst`. -/
inductive GuardOrder
  | latchFirst | addressFirst
deriving DecidableEq, Repr

/-- The four delay budgets k of `Delay(k)` (00_scope.md R6, 10_state.md R10). -/
inductive Budget
  | cs | w | r | p
deriving DecidableEq, Repr

/-- Everything fixed at construction (00_scope.md R5). No step changes it (70_reset_and_hazards.md R109). -/
structure Configuration where
  /-- `MODEL`. -/
  model : Model
  /-- `ORG`. -/
  org : Organization
  /-- `T_CS`, microseconds. -/
  tCS : Nat
  /-- `T_W`, microseconds. -/
  tW : Nat
  /-- `T_R`, microseconds. -/
  tR : Nat
  /-- `T_P`, microseconds. -/
  tP : Nat
  /-- `READY_LIMIT`: `none` is the baseline, the unbounded ready-wait (42_transport.md R69). -/
  readyLimit : Option Nat
  /-- `GUARD_ORDER`: `latchFirst` is the default (92_eei_decisions.md, parameters left open). -/
  guardOrder : GuardOrder
deriving DecidableEq, Repr

/-- The closed enumeration of errors, each with its `info` (60_exceptions.md R91, decision D13). -/
inductive EngineError
  /-- 60_exceptions.md R88; the offending construction argument. -/
  | configurationError (argument : Int)
  /-- 60_exceptions.md R89; the offending address. -/
  | addressOutOfRange (address : Int)
  /-- 60_exceptions.md R90, opt-in only; the limit. -/
  | hardwareTimeout (limit : Nat)
deriving DecidableEq, Repr

namespace Config

/-- DESIGN CHOICE (log 4, log 5). The construction arguments of the reset state: the source's own scenario,
model 56 with organization 16, all four delay counts 0. `readyLimit` and `guardOrder` are the spec's defaults. -/
def resetConfiguration : Configuration :=
  { model := .m56, org := .org16, tCS := 0, tW := 0, tR := 0, tP := 0,
    readyLimit := none, guardOrder := .latchFirst }

/-- A FREE VALUE (log 8): the level of DO at the n-th sample of an engine whose DO line is free
(20_memory.md R35: "decided outside the engine and is under no law in this spec"). -/
opaque doLevel : Nat → Bit

/-- A FREE VALUE (log 2): the n-th request of a host that never stops and whose requests are left open
(60_exceptions.md R107: "issue any request in any order, any number of times"). -/
opaque hostCall : Nat → Instr

end Config

end Sys2Proof
end

