-- ==== Sys2Proof/Machine/Geometry.lean ====
section
/-!
DEFINITION. The geometry resolver (40_geometry.md): word count, address width, address mask and word width as pure
functions of organization and model, and the validation of the construction arguments.
-/

namespace Sys2Proof.Machine

/-- The factor of the model tier (40_geometry.md R52). -/
def tierFactor : Model → Nat
  | .m46 => 1
  | .m56 => 2
  | .m66 => 4
  | .m76 => 8
  | .m86 => 16

/-- `WC`, the word count (40_geometry.md R52). -/
def wordCount (org : Organization) (model : Model) : Nat :=
  (match org with | .org8 => 128 | .org16 => 64) * tierFactor model

/-- The address bits a model tier adds: the bands are 46, then 56 and 66, then 76 and 86, mutually exclusive
(40_geometry.md R53, R54). -/
def tierBits : Model → Nat
  | .m46 => 0
  | .m56 => 2
  | .m66 => 2
  | .m76 => 4
  | .m86 => 4

/-- `AW`, the address width (40_geometry.md R53). -/
def addressWidth (org : Organization) (model : Model) : Nat :=
  (match org with | .org8 => 7 | .org16 => 6) + tierBits model

/-- The base address mask of an organization (40_geometry.md R54). -/
def baseMask : Organization → Nat
  | .org8 => 0x7F
  | .org16 => 0x3F

/-- `AM`, the address mask, by the shift-and-or formula of 40_geometry.md R54, not from the width
(90_conflicts.md C1). -/
def addressMask (org : Organization) (model : Model) : Nat :=
  match model with
  | .m46 => baseMask org
  | .m56 => (baseMask org <<< 2) ||| 0x03
  | .m66 => (baseMask org <<< 2) ||| 0x03
  | .m76 => (baseMask org <<< 4) ||| 0x0F
  | .m86 => (baseMask org <<< 4) ||| 0x0F

/-- `W`, the word width (40_geometry.md R55). -/
def wordWidth : Organization → Nat
  | .org8 => 8
  | .org16 => 16

/-- The geometry: what the resolver returns (40_geometry.md R56). -/
structure Geometry where
  wc : Nat
  aw : Nat
  am : Nat
deriving DecidableEq, Repr

/-- The organization an integer names; the others are invalid (decision D14). -/
def organizationOf (org : Int) : Option Organization :=
  if org = 8 then some .org8 else if org = 16 then some .org16 else none

/-- The model an integer names; the others are invalid (decision D14). -/
def modelOf (model : Int) : Option Model :=
  if model = 46 then some .m46 else if model = 56 then some .m56 else if model = 66 then some .m66
  else if model = 76 then some .m76 else if model = 86 then some .m86 else none

/-- The two construction arguments validated, the organization first (40_geometry.md R56; log 21). -/
def validateArguments (org model : Int) : Except EngineError (Organization × Model) :=
  match organizationOf org with
  | none => .error (.configurationError org)
  | some o =>
    match modelOf model with
    | none => .error (.configurationError model)
    | some m => .ok (o, m)

/-- `resolve(ORG, MODEL)` (40_geometry.md R56). -/
def resolve (org model : Int) : Except EngineError Geometry :=
  match validateArguments org model with
  | .error e => .error e
  | .ok (o, m) => .ok { wc := wordCount o m, aw := addressWidth o m, am := addressMask o m }

end Sys2Proof.Machine

namespace Sys2Proof

/-- `WC` of a configuration (10_state.md R9). -/
def Configuration.wc (c : Configuration) : Nat := Machine.wordCount c.org c.model

/-- `AW` of a configuration (10_state.md R9). -/
def Configuration.aw (c : Configuration) : Nat := Machine.addressWidth c.org c.model

/-- `AM` of a configuration (10_state.md R9). -/
def Configuration.am (c : Configuration) : Nat := Machine.addressMask c.org c.model

/-- `W` of a configuration (10_state.md R9). -/
def Configuration.w (c : Configuration) : Nat := Machine.wordWidth c.org

/-- `T_k`, the count of a delay budget (10_state.md R10). -/
def Configuration.count (c : Configuration) : Budget → Nat
  | .cs => c.tCS
  | .w => c.tW
  | .r => c.tR
  | .p => c.tP

end Sys2Proof
end

