-- ==== Sys2Proof/Machine/Encoder.lean ====
section
/-!
DEFINITION. The command encoder (41_encoder.md): pure functions that pack a command value and its length; and the
frame with its start bit (30_encoding.md R42).
-/

namespace Sys2Proof.Machine

/-- The opcode field (30_encoding.md R43). -/
inductive Opcode
  | control | write | read | erase
deriving DecidableEq, Repr

/-- The two bits of an opcode (30_encoding.md R43). -/
def Opcode.code : Opcode → Nat
  | .control => 0b00
  | .write => 0b01
  | .read => 0b10
  | .erase => 0b11

/-- The sub-command of a control frame (30_encoding.md R44). -/
inductive SubCommand
  | disableWrite | writeAll | eraseAll | enableWrite
deriving DecidableEq, Repr

/-- The two bits of a sub-command (30_encoding.md R44). -/
def SubCommand.code : SubCommand → Nat
  | .disableWrite => 0b00
  | .writeAll => 0b01
  | .eraseAll => 0b10
  | .enableWrite => 0b11

/-- An encoder result: a value and its length in bits (41_encoder.md). -/
structure Encoded where
  value : Nat
  length : Nat
deriving DecidableEq, Repr

/-- `x & mask` for a mask of the form 2^n - 1: bitwise AND of a non-negative integer, the remainder modulo
`mask + 1` of a negative one (00_scope.md section 4.1, decision D9; log 17). -/
def maskInt (x : Int) (mask : Nat) : Nat :=
  match x with
  | .ofNat k => k &&& mask
  | .negSucc k => (Int.emod (.negSucc k) (mask + 1 : Nat)).toNat

/-- `ENC_CONTROL(sub)` (41_encoder.md R59). -/
def encControl (aw : Nat) (sub : SubCommand) : Encoded :=
  { value := (Opcode.control.code <<< aw) ||| (sub.code <<< (aw - 2)), length := aw + 2 }

/-- `ENC_ADDRESSED(opc, addr)` (41_encoder.md R60). It never validates the address. -/
def encAddressed (aw am : Nat) (opc : Opcode) (addr : Int) : Encoded :=
  { value := (opc.code <<< aw) ||| maskInt addr am, length := aw + 2 }

/-- `ENC_PAYLOAD(v)` (41_encoder.md R61; for ORG 8 the mask is 0xFF, 90_conflicts.md C2). -/
def encPayload (w : Nat) (v : Int) : Encoded :=
  { value := maskInt v (2 ^ w - 1), length := w }

/-- The whole frame of a command as a number: the start bit on top of the command value (30_encoding.md R42). -/
def frameOf (cmd : Encoded) : Nat := (1 <<< cmd.length) ||| cmd.value

end Sys2Proof.Machine
end

