-- ==== Sys2Proof/Machine/State.lean ====
section
/-!
DEFINITION. The state of one engine instance (10_state.md R7) and of what stands outside it, the ways a step can
stop, and the state after reset.
-/

namespace Sys2Proof.Machine

/-- The three output lines (00_scope.md section 4.3). -/
inductive Line
  | cs | sk | di
deriving DecidableEq, Repr

/-- A line latch: the level last driven, or no value before the first drive (10_state.md R14, decision D3). -/
inductive Latch
  | noValue | low | high
deriving DecidableEq, Repr

/-- The latch after a drive to level `b`. -/
def Latch.ofBit : Bit → Latch
  | false => .low
  | true => .high

/-- One event of the line-event trace (00_scope.md R6). A delay event carries the count handed to the platform
primitive (20_memory.md R30; log 23). -/
inductive Event
  | drive (line : Line) (level : Bit)
  | dly (budget : Budget) (count : Nat)
  | smp (level : Bit)
deriving DecidableEq, Repr

/-- The request in flight: the eight that touch the wire (log 10). -/
inductive Op
  | enableWrite | disableWrite | eraseAll | writeAll | erase | write | read | readSequential
deriving DecidableEq, Repr

/-- The event about to be produced within a shifted-out bit (10_state.md R17, 42_transport.md R64). -/
inductive OutPhase
  | di | dly1 | skHigh | dly2 | skLow | dly3
deriving DecidableEq, Repr

/-- The event about to be produced within a shifted-in bit (10_state.md R17, 42_transport.md R65). -/
inductive InPhase
  | skHigh | dly1 | sample | skLow | dly2
deriving DecidableEq, Repr

/-- The event about to be produced within the ready-wait (10_state.md R17, 42_transport.md R66). -/
inductive PollPhase
  | sample | dly
deriving DecidableEq, Repr

/-- The positions of the envelope between two steps (10_state.md R17, 42_transport.md R70). -/
inductive Pos
  /-- CS has been driven high with the acceptance; the settle delay comes next. -/
  | csAssert
  | start (p : OutPhase)
  | command (p : OutPhase)
  | payloadOut (p : OutPhase)
  | wordIn (k : Nat) (p : InPhase)
  | readyWait (p : PollPhase)
  | csDeassert
  /-- The `CS_DEASSERT` inside the bounded ready-wait that has run out of its limit (42_transport.md R69). -/
  | timeoutDeassert (limit : Nat)
deriving DecidableEq, Repr

/-- `SEQ`, the sequencer position (10_state.md R17). -/
inductive Seq
  | idle
  | busy (op : Op) (pos : Pos)
deriving DecidableEq, Repr

/-- What the outside presents on DO once the queued bits are used up: one level for ever (a line stuck high or
low, 42_transport.md R65 (b), 60_exceptions.md R99), or any bit every time. -/
inductive DoTail
  | stuck (level : Bit)
  | free
deriving DecidableEq, Repr

/-- The outside's side of `Sample()` (20_memory.md R35; log 8): the bits to come, what follows them, and the counter
of samples taken, the argument of the free value. -/
structure DoInput where
  queue : List Bit
  tail : DoTail
  taken : Nat
deriving DecidableEq, Repr

/-- What the host does once the queued requests are used up: it issues none any more, or one sequence of requests over and
over, or any request every time (60_exceptions.md R107). -/
inductive HostTail
  | ends
  | repeats (first : Instr) (rest : List Instr)
  | free
deriving DecidableEq, Repr

/-- The host's side: "a finite or infinite sequence of requests" (60_exceptions.md R107; log 2): the requests to come,
what follows them, and the counter of free requests taken, the argument of the free value. -/
structure HostCalls where
  queue : List Instr
  tail : HostTail
  taken : Nat
deriving DecidableEq, Repr

/-- What a request ends with (60_exceptions.md R107): nothing, a boolean, a word, a list of words, or an error. -/
inductive Reply
  | none
  | boolean (b : Bool)
  | word (w : Word)
  | words (ws : List Word)
  | error (e : EngineError)
deriving DecidableEq, Repr

/-- The state: the engine's elements (10_state.md R7), the two the envelope implies, and the outside. -/
@[ext]
structure State where
  /-- `MODEL`, `ORG`, the delay counts, `READY_LIMIT`, `GUARD_ORDER` (R8, R9, R10). -/
  cfg : Configuration
  /-- `WEN`, the enable latch (R11). -/
  wen : Bool
  /-- `CS` (R14). -/
  cs : Latch
  /-- `SK` (R14). -/
  sk : Latch
  /-- `DI` (R14). -/
  di : Latch
  /-- `A`, the address operand (R15). -/
  a : Int
  /-- `V`, the value operand (R15). -/
  v : Int
  /-- `N`, the count operand (R15). -/
  n : Nat
  /-- `ACC`, the shift-in accumulator (R16). -/
  acc : Word
  /-- `I`, the bit index (R16). -/
  i : Nat
  /-- `SEQ` (R17). -/
  seq : Seq
  /-- The envelope's `result`: the words shifted in so far (42_transport.md R70). -/
  words : List Word
  /-- `k`, the failed polls of the ready-wait in progress (42_transport.md R69). -/
  polls : Nat
  /-- The host: the requests it will still issue, in order (60_exceptions.md R107; log 2). -/
  requests : HostCalls
  /-- The outside of DO (20_memory.md R35; log 8). -/
  doIn : DoInput
  /-- The events produced so far, oldest first (00_scope.md R6; log 9). -/
  trace : List Event
  /-- What the host got back so far, oldest first (60_exceptions.md R107; log 9). -/
  replies : List Reply
deriving DecidableEq, Repr

/-- What stops the machine. -/
inductive Fault
  /-- Raised by `construct` only, with a `ConfigurationError`: "no partial Device is usable" (60_exceptions.md R88).
  Safe: the model has no state where the hardware has none. No step raises it. -/
  | noEngine (e : EngineError)
deriving DecidableEq, Repr

/-- What has no meaning. -/
inductive Refusal
  /-- An instruction without a meaning yet: raised by no arm of this model. Safe. -/
  | notModelled (mnemonic : String)
  /-- A `read_sequential` with a negative count, raised by its meaning: "not an admitted request (a model refuses
  it)" (decision D9, 93_implementation_defined.md U6). Safe. -/
  | negativeCount
  /-- A request made while another runs, raised by every meaning and never by `step`: overlapping requests are
  refused (20_memory.md R40, 93_implementation_defined.md U3). Safe. -/
  | requestWhileBusy
deriving DecidableEq, Repr

/-- The engine right after a successful construction with configuration `c` (10_state.md R22,
70_reset_and_hazards.md R108). The transient latches hold 0 (DESIGN CHOICE, log 7); the outside of DO is free
(DESIGN CHOICE, log 8); no request is on its way (log 16). -/
def State.constructed (c : Configuration) : State :=
  { cfg := c, wen := false, cs := .noValue, sk := .noValue, di := .noValue,
    a := 0, v := 0, n := 0, acc := 0, i := 0, seq := .idle, words := [], polls := 0,
    requests := { queue := [], tail := .ends, taken := 0 }, doIn := { queue := [], tail := .free, taken := 0 }, trace := [], replies := [] }

/-- The state after reset: construction with the configuration of log 4 and log 5. -/
def State.reset : State := State.constructed Config.resetConfiguration

end Sys2Proof.Machine
end

