-- ==== Sys2Proof/Machine/Ops.lean ====
section
/-!
DEFINITION. The outside of DO and the host, the primitives that reach the outside (20_memory.md R29 to R31), the end of
a request by a return or an error, and construction.
-/

namespace Sys2Proof.Machine

/-- The bit the next `Sample()` returns (20_memory.md R35). -/
def DoInput.bit (d : DoInput) : Bit :=
  match d.queue with
  | b :: _ => b
  | [] =>
    match d.tail with
    | .stuck b => b
    | .free => Config.doLevel d.taken

/-- The outside of DO after one `Sample()`. -/
def DoInput.next (d : DoInput) : DoInput :=
  { d with queue := d.queue.tail, taken := d.taken + 1 }

/-- The outside of DO after k samples. -/
def DoInput.after (d : DoInput) : Nat → DoInput
  | 0 => d
  | k + 1 => DoInput.after d.next k

/-- The bit the k-th sample from now returns, k from 0. -/
def DoInput.nth (d : DoInput) (k : Nat) : Bit := (d.after k).bit

/-- The request as a host may issue it: a count is a natural (10_state.md R15, decision D9). Every admitted request is
itself. -/
def issuable : Instr → Instr
  | .enableWrite => .enableWrite
  | .disableWrite => .disableWrite
  | .isWriteEnabled => .isWriteEnabled
  | .eraseAll => .eraseAll
  | .writeAll value => .writeAll value
  | .erase addr => .erase addr
  | .write addr value => .write addr value
  | .read addr => .read addr
  | .readSequential addr count => .readSequential addr (count.toNat : Int)

/-- The host's next request and the host after issuing it; none where it issues no more (60_exceptions.md R107). -/
def HostCalls.next (h : HostCalls) : Option (Instr × HostCalls) :=
  match h.queue with
  | i :: rest => some (i, { h with queue := rest })
  | [] =>
    match h.tail with
    | .ends => none
    | .repeats first rest => some (first, { h with queue := rest })
    | .free => some (issuable (Config.hostCall h.taken), { h with taken := h.taken + 1 })

/-- The host with one request before all others. -/
def HostCalls.push (h : HostCalls) (i : Instr) : HostCalls := { h with queue := i :: h.queue }

/-- `Drive(L, b)`: one event, and the latch of the line takes the level, whatever it held (20_memory.md R29). -/
def State.drive (s : State) (line : Line) (level : Bit) : State :=
  match line with
  | .cs => { s with cs := Latch.ofBit level, trace := s.trace ++ [.drive .cs level] }
  | .sk => { s with sk := Latch.ofBit level, trace := s.trace ++ [.drive .sk level] }
  | .di => { s with di := Latch.ofBit level, trace := s.trace ++ [.drive .di level] }

/-- `Delay(k)`: one event and no other effect, also when the count is 0 (20_memory.md R30). -/
def State.delay (s : State) (k : Budget) : State :=
  { s with trace := s.trace ++ [.dly k (s.cfg.count k)] }

/-- `Sample()`: one event with the bit `s.doIn.bit`, and the outside goes on to its next bit (20_memory.md R31). -/
def State.sample (s : State) : State :=
  { s with doIn := s.doIn.next, trace := s.trace ++ [.smp s.doIn.bit] }

/-- The sequencer goes to a position of the request `op` (10_state.md R17). -/
def State.goto (s : State) (op : Op) (pos : Pos) : State := { s with seq := .busy op pos }

/-- `return r`: the host gets the reply and the engine is idle (70_reset_and_hazards.md R120). -/
def State.finish (s : State) (r : Reply) : State :=
  { s with seq := .idle, replies := s.replies ++ [r] }

/-- Taking an error, `raise E(info)`: the request stops and the error is its result; nothing is saved, no mode
changes, control goes back to the host (60_exceptions.md R94). There is no return from it (R96). -/
def State.raise (s : State) (e : EngineError) : State := s.finish (.error e)

/-- Loading the address operand at acceptance (10_state.md R15). -/
def State.loadA (s : State) (addr : Int) : State := { s with a := addr }

/-- Loading the value operand at acceptance (10_state.md R15). -/
def State.loadV (s : State) (value : Int) : State := { s with v := value }

/-- Loading the count operand at acceptance (10_state.md R15). -/
def State.loadN (s : State) (count : Nat) : State := { s with n := count }

/-- Writing the bit index I (10_state.md R16). -/
def State.setI (s : State) (i : Nat) : State := { s with i := i }

/-- Writing the accumulator ACC (10_state.md R16). -/
def State.setAcc (s : State) (acc : Word) : State := { s with acc := acc }

/-- Writing the envelope's result list (42_transport.md R70). -/
def State.setWords (s : State) (words : List Word) : State := { s with words := words }

/-- Writing the count of failed polls (42_transport.md R69). -/
def State.setPolls (s : State) (k : Nat) : State := { s with polls := k }

/-- Writing the enable latch (10_state.md R11). -/
def State.setWen (s : State) (wen : Bool) : State := { s with wen := wen }

/-- `construct(model, organization, lines, delays)` (70_reset_and_hazards.md R108). The validation comes first; a
failure leaves no engine (60_exceptions.md R88). `READY_LIMIT` is none. The line handles are the platform's and
no state (10_state.md R7). -/
def construct (model org : Int) (tCS tW tR tP : Nat) : Host.Outcome State Fault Refusal :=
  match validateArguments org model with
  | .error e => .fault (.noEngine e)
  | .ok (o, m) =>
    .next (State.constructed
      { model := m, org := o, tCS := tCS, tW := tW, tR := tR, tP := tP, readyLimit := none,
        guardOrder := .latchFirst })

/-- A consumer's opt-in to the bounded ready-wait, right after construction (42_transport.md R69, decision D6). -/
def State.optIn (s : State) (limit : Nat) : State := { s with cfg := { s.cfg with readyLimit := some limit } }

end Sys2Proof.Machine
end

