-- ==== Sys2Proof/Machine/Operands.lean ====
section
/-!
DEFINITION. Operands: the range check of an address (44_addressed_ops.md R80) and the arguments each request gives the
envelope (42_transport.md R70), read from the operand latches.
-/

namespace Sys2Proof.Machine

/-- Whether `VALIDATE(addr)` passes (44_addressed_ops.md R80): against the word count, not the mask. -/
def addressInRange (c : Configuration) (addr : Int) : Bool := decide (0 ≤ addr ∧ addr < (c.wc : Int))

/-- The arguments of `ENVELOPE` (42_transport.md R70). -/
structure EnvelopeArgs where
  cmd : Encoded
  payload : Option Encoded
  inWords : Nat
  wait : Bool
deriving DecidableEq, Repr

/-- The words a sequential read shifts in: `min(N, WC - A)` (44_addressed_ops.md R84, 90_conflicts.md C6). -/
def sequentialWords (c : Configuration) (addr : Int) (count : Nat) : Nat :=
  min count ((c.wc : Int) - addr).toNat

/-- 43_control_ops.md R75. -/
def enableWriteEnvelope (s : State) : EnvelopeArgs :=
  { cmd := encControl s.cfg.aw .enableWrite, payload := none, inWords := 0, wait := false }

/-- 43_control_ops.md R76. -/
def disableWriteEnvelope (s : State) : EnvelopeArgs :=
  { cmd := encControl s.cfg.aw .disableWrite, payload := none, inWords := 0, wait := false }

/-- 43_control_ops.md R78. -/
def eraseAllEnvelope (s : State) : EnvelopeArgs :=
  { cmd := encControl s.cfg.aw .eraseAll, payload := none, inWords := 0, wait := true }

/-- 43_control_ops.md R79. -/
def writeAllEnvelope (s : State) : EnvelopeArgs :=
  { cmd := encControl s.cfg.aw .writeAll, payload := some (encPayload s.cfg.w s.v), inWords := 0, wait := true }

/-- 44_addressed_ops.md R81. -/
def eraseEnvelope (s : State) : EnvelopeArgs :=
  { cmd := encAddressed s.cfg.aw s.cfg.am .erase s.a, payload := none, inWords := 0, wait := true }

/-- 44_addressed_ops.md R82. -/
def writeEnvelope (s : State) : EnvelopeArgs :=
  { cmd := encAddressed s.cfg.aw s.cfg.am .write s.a, payload := some (encPayload s.cfg.w s.v), inWords := 0,
    wait := true }

/-- 44_addressed_ops.md R83. -/
def readEnvelope (s : State) : EnvelopeArgs :=
  { cmd := encAddressed s.cfg.aw s.cfg.am .read s.a, payload := none, inWords := 1, wait := false }

/-- 44_addressed_ops.md R84. -/
def readSequentialEnvelope (s : State) : EnvelopeArgs :=
  { cmd := encAddressed s.cfg.aw s.cfg.am .read s.a, payload := none, inWords := sequentialWords s.cfg s.a s.n,
    wait := false }

/-- The envelope of the request in flight. -/
def State.envelope (s : State) : Op → EnvelopeArgs
  | .enableWrite => enableWriteEnvelope s
  | .disableWrite => disableWriteEnvelope s
  | .eraseAll => eraseAllEnvelope s
  | .writeAll => writeAllEnvelope s
  | .erase => eraseEnvelope s
  | .write => writeEnvelope s
  | .read => readEnvelope s
  | .readSequential => readSequentialEnvelope s

/-- What the request in flight returns (43_control_ops.md R75 to R79, 44_addressed_ops.md R81 to R84). A `read` has
shifted in exactly one word when it ends. -/
def State.result (s : State) : Op → Reply
  | .enableWrite => .none
  | .disableWrite => .none
  | .eraseAll => .none
  | .writeAll => .none
  | .erase => .none
  | .write => .none
  | .read => .word (s.words.headD 0)
  | .readSequential => .words s.words

end Sys2Proof.Machine
end

