-- ==== Sys2Proof/Machine/Flags.lean ====
section
/-!
DEFINITION. The one status flag, the enable latch `WEN` (10_state.md R11, R12): the guards that read it and the two
requests that write it.
-/

namespace Sys2Proof.Machine

/-- `WEN` after the request in flight has ended (10_state.md R11): two requests write it, unconditionally; no other
does (R12). -/
def wenAfter (op : Op) (wen : Bool) : Bool :=
  match op with
  | .enableWrite => true
  | .disableWrite => false
  | .eraseAll => wen
  | .writeAll => wen
  | .erase => wen
  | .write => wen
  | .read => wen
  | .readSequential => wen

/-- The latch guard of `erase_all` and `write_all` (43_control_ops.md R74, R78, R79): with `WEN = 0` a silent no-op
(60_exceptions.md R97), else the body. -/
def State.latchGuard (s : State) (body : State) : State := if s.wen then body else s.finish .none

/-- `VALIDATE(addr)` (44_addressed_ops.md R80): the error out of range, else the body. -/
def State.validate (s : State) (addr : Int) (body : State) : State :=
  if addressInRange s.cfg addr then body else s.raise (.addressOutOfRange addr)

/-- The guard and the validation of `erase` and `write` in the order `GUARD_ORDER` says; the spec's rule is the
latch first (43_control_ops.md R74, decision D7; log 19). -/
def State.guardAndValidate (s : State) (addr : Int) (body : State) : State :=
  match s.cfg.guardOrder with
  | .latchFirst => s.latchGuard (s.validate addr body)
  | .addressFirst => s.validate addr (s.latchGuard body)

end Sys2Proof.Machine
end

