-- ==== Sys2Proof/Machine/Transport.lean ====
section
/-!
DEFINITION. The bit-level transport (42_transport.md): acceptance of a request with its first event, and the one event
a step produces at each position of the envelope.
-/

namespace Sys2Proof.Machine

/-- Acceptance of a request that touches the wire, done together with its first event, `CS=1` of `CS_ASSERT`
(00_scope.md section 4.4, 42_transport.md R67, R70; log 3). -/
def State.launch (s : State) (op : Op) : State :=
  ((s.setWords []).drive .cs true).goto op .csAssert

/-- A shift-out of `length` bits begins: I is `length - 1` (42_transport.md R64). -/
def State.enterShiftOut (s : State) (op : Op) (here : OutPhase → Pos) (length : Nat) : State :=
  (s.setI (length - 1)).goto op (here .di)

/-- Word k begins: ACC is 0 and I is `W - 1` (42_transport.md R65, decision D8). -/
def State.enterWord (s : State) (op : Op) (k : Nat) : State :=
  ((s.setAcc 0).setI (s.cfg.w - 1)).goto op (.wordIn k .skHigh)

/-- The ready-wait begins (42_transport.md R66, R69). -/
def State.enterReadyWait (s : State) (op : Op) : State :=
  (s.setPolls 0).goto op (.readyWait .sample)

/-- After the last word, or after the last bit out where no word comes in (42_transport.md R70). -/
def State.afterWords (s : State) (op : Op) : State :=
  if (s.envelope op).wait then s.enterReadyWait op else s.goto op .csDeassert

/-- Word k, if the request has that many, else what follows the words (42_transport.md R70). -/
def State.nextWord (s : State) (op : Op) (k : Nat) : State :=
  if k < (s.envelope op).inWords then s.enterWord op k else s.afterWords op

/-- After the command: the payload where there is one (42_transport.md R70). -/
def State.afterCommand (s : State) (op : Op) : State :=
  match (s.envelope op).payload with
  | some p => s.enterShiftOut op .payloadOut p.length
  | none => s.nextWord op 0

/-- After the payload (42_transport.md R70). -/
def State.afterPayload (s : State) (op : Op) : State := s.nextWord op 0

/-- After the start bit: the command (42_transport.md R70). -/
def State.afterStart (s : State) (op : Op) : State :=
  s.enterShiftOut op .command (s.envelope op).cmd.length

/-- One event of `SHIFT_OUT(value, length)` (42_transport.md R64); `after` is what follows the last bit. -/
def State.shiftOutTick (s : State) (op : Op) (here : OutPhase → Pos) (value : Nat) (after : State → State) :
    OutPhase → State
  | .di => (s.drive .di (value.testBit s.i)).goto op (here .dly1)
  | .dly1 => (s.delay .w).goto op (here .skHigh)
  | .skHigh => (s.drive .sk true).goto op (here .dly2)
  | .dly2 => (s.delay .w).goto op (here .skLow)
  | .skLow => (s.drive .sk false).goto op (here .dly3)
  | .dly3 =>
    if s.i = 0 then after (s.delay .w)
    else ((s.setI (s.i - 1)).delay .w).goto op (here .di)

/-- `ACC <- ACC | (b << I)` for the bit just sampled (42_transport.md R65; log 11). -/
def State.accumulate (s : State) (b : Bit) : State := s.setAcc (s.acc ||| (Word.ofBit b <<< s.i))

/-- One event of `SHIFT_IN(W)` for word k (42_transport.md R65). -/
def State.shiftInTick (s : State) (op : Op) (k : Nat) : InPhase → State
  | .skHigh => (s.drive .sk true).goto op (.wordIn k .dly1)
  | .dly1 => (s.delay .r).goto op (.wordIn k .sample)
  | .sample => (s.sample.accumulate s.doIn.bit).goto op (.wordIn k .skLow)
  | .skLow => (s.drive .sk false).goto op (.wordIn k .dly2)
  | .dly2 =>
    if s.i = 0 then ((s.setWords (s.words ++ [s.acc])).delay .r).nextWord op (k + 1)
    else ((s.setI (s.i - 1)).delay .r).goto op (.wordIn k .skHigh)

/-- Where a failed poll leads: on to the delay, or out when the opted-in limit is reached (42_transport.md R66, R69). -/
def State.pollFailed (s : State) (op : Op) : State :=
  match s.cfg.readyLimit with
  | none => s.goto op (.readyWait .dly)
  | some limit =>
    if s.polls = limit then s.goto op (.timeoutDeassert limit) else s.goto op (.readyWait .dly)

/-- One event of the ready-wait (42_transport.md R66, R69). -/
def State.pollTick (s : State) (op : Op) : PollPhase → State
  | .sample => if s.doIn.bit then s.sample.goto op .csDeassert else s.sample.pollFailed op
  | .dly => ((s.setPolls (s.polls + 1)).delay .p).goto op (.readyWait .sample)

/-- The end of the request in flight: the write of `WEN`, then the return (43_control_ops.md R74 steps 4 and 5). -/
def State.complete (s : State) (op : Op) : State :=
  (s.setWen (wenAfter op s.wen)).finish (s.result op)

/-- The one event a step produces at a position of the request in flight (10_state.md R17, 42_transport.md R70). -/
def State.advance (s : State) (op : Op) : Pos → State
  | .csAssert => (s.delay .cs).enterShiftOut op .start 1
  | .start p => s.shiftOutTick op .start 1 (fun t => t.afterStart op) p
  | .command p => s.shiftOutTick op .command (s.envelope op).cmd.value (fun t => t.afterCommand op) p
  | .payloadOut p =>
    s.shiftOutTick op .payloadOut (((s.envelope op).payload.map Encoded.value).getD 0)
      (fun t => t.afterPayload op) p
  | .wordIn k p => s.shiftInTick op k p
  | .readyWait p => s.pollTick op p
  | .csDeassert => (s.drive .cs false).complete op
  | .timeoutDeassert limit => (s.drive .cs false).raise (.hardwareTimeout limit)

end Sys2Proof.Machine
end

