-- ==== Sys2Proof/Machine/Control.lean ====
section
/-!
DEFINITION. The control requests (43_control_ops.md): what the acceptance of each does. The later steps of the
request are `State.advance`.
-/

namespace Sys2Proof.Machine

/-- A request is accepted only when `SEQ = IDLE` (20_memory.md R40); an overlapping one is refused
(93_implementation_defined.md U3). -/
def whenIdle (s : State) (t : State) : Host.Outcome State Fault Refusal :=
  match s.seq with
  | .idle => .next t
  | .busy _ _ => .refused .requestWhileBusy

/-- `enable_write()` (43_control_ops.md R75): no guard; the envelope; `WEN <- 1` at its end. -/
def execEnableWrite (s : State) : Host.Outcome State Fault Refusal := whenIdle s (s.launch .enableWrite)

/-- `disable_write()` (43_control_ops.md R76): no guard; the envelope; `WEN <- 0` at its end. -/
def execDisableWrite (s : State) : Host.Outcome State Fault Refusal := whenIdle s (s.launch .disableWrite)

/-- `is_write_enabled()` (43_control_ops.md R77): a pure read of the latch, no event. -/
def execIsWriteEnabled (s : State) : Host.Outcome State Fault Refusal :=
  whenIdle s (s.finish (.boolean s.wen))

/-- `erase_all()` (43_control_ops.md R78). -/
def execEraseAll (s : State) : Host.Outcome State Fault Refusal :=
  whenIdle s (s.latchGuard (s.launch .eraseAll))

/-- `write_all(value)` (43_control_ops.md R79). -/
def execWriteAll (value : Int) (s : State) : Host.Outcome State Fault Refusal :=
  whenIdle s (s.latchGuard ((s.loadV value).launch .writeAll))

end Sys2Proof.Machine
end

