-- ==== Sys2Proof/Machine/Addressed.lean ====
section
/-!
DEFINITION. The addressed requests (44_addressed_ops.md): what the acceptance of each does.
-/

namespace Sys2Proof.Machine

/-- `erase(addr)` (44_addressed_ops.md R81). -/
def execErase (addr : Int) (s : State) : Host.Outcome State Fault Refusal :=
  whenIdle s (s.guardAndValidate addr ((s.loadA addr).launch .erase))

/-- `write(addr, value)` (44_addressed_ops.md R82). -/
def execWrite (addr value : Int) (s : State) : Host.Outcome State Fault Refusal :=
  whenIdle s (s.guardAndValidate addr (((s.loadA addr).loadV value).launch .write))

/-- `read(addr)` (44_addressed_ops.md R83): the latch is irrelevant. -/
def execRead (addr : Int) (s : State) : Host.Outcome State Fault Refusal :=
  whenIdle s (s.validate addr ((s.loadA addr).launch .read))

/-- `read_sequential(addr, count)` (44_addressed_ops.md R84): the start address is validated; a negative count is
not admitted (decision D9). -/
def execReadSequential (addr count : Int) (s : State) : Host.Outcome State Fault Refusal :=
  if 0 ≤ count then whenIdle s (s.validate addr (((s.loadA addr).loadN count.toNat).launch .readSequential))
  else .refused .negativeCount

end Sys2Proof.Machine
end

