-- ==== Sys2Proof/Machine/Dispatch.lean ====
section
/-! DEFINITION. The meaning of each request: one arm per constructor. -/

namespace Sys2Proof.Machine

def exec (i : Instr) (s : State) : Host.Outcome State Fault Refusal :=
  match i with
  | .enableWrite => Sys2Proof.Machine.execEnableWrite s
  | .disableWrite => Sys2Proof.Machine.execDisableWrite s
  | .isWriteEnabled => Sys2Proof.Machine.execIsWriteEnabled s
  | .eraseAll => Sys2Proof.Machine.execEraseAll s
  | .writeAll value => Sys2Proof.Machine.execWriteAll value s
  | .erase addr => Sys2Proof.Machine.execErase addr s
  | .write addr value => Sys2Proof.Machine.execWrite addr value s
  | .read addr => Sys2Proof.Machine.execRead addr s
  | .readSequential addr count => Sys2Proof.Machine.execReadSequential addr count s

end Sys2Proof.Machine
end

