-- ==== Sys2Proof/WellFormed.lean ====
section
/-!
DEFINITION. Which requests are admitted (decision D9, 93_implementation_defined.md U6).
-/

namespace Sys2Proof

/-- A request is admitted unless its count is negative: "a negative or non-integer operand is not an admitted
request" of a count (decision D9). Addresses and values range over all integers (10_state.md R15). -/
def Instr.wellFormed : Instr → Bool
  | .enableWrite => true
  | .disableWrite => true
  | .isWriteEnabled => true
  | .eraseAll => true
  | .writeAll _ => true
  | .erase _ => true
  | .write _ _ => true
  | .read _ => true
  | .readSequential _ count => decide (0 ≤ count)

end Sys2Proof
end

