-- ==== Sys2Proof/Decode.lean ====
section
/-!
DEFINITION. Decoder and encoder of requests. The engine decodes nothing (00_scope.md R2); a request reaches it as an
abstract call (decision D10). This file reads the frame a request puts on DI back into the request, and gives the
requests a record of four bytes, the model's own (log 14): two bytes of frame, start bit on top, and two bytes of
operand, each pair least significant byte first.
-/

namespace Sys2Proof

open Machine

/-- Why a record is no request. -/
inductive DecodeError
  /-- Fewer than four bytes. -/
  | truncated
  /-- The frame number's top set bit is at no place a start bit has (30_encoding.md R42, R48). -/
  | notAFrame
  /-- A control frame whose low AW - 2 bits are not all 0 (30_encoding.md R45, R50). -/
  | fillerNotZero
  /-- An operand word beside a request that has none. -/
  | strayOperand
  /-- A payload wider than W bits (30_encoding.md R47). -/
  | payloadTooWide
deriving DecidableEq, Repr

/-- A decoded record: the address width its frame shows (none for `is_write_enabled`, which has no frame) and
the request. -/
structure Decoded where
  aw : Option Nat
  instr : Instr
deriving DecidableEq, Repr

/-- The word width that goes with an address width: AW is 6, 8 or 10 for ORG 16 and 7, 9 or 11 for ORG 8
(40_geometry.md R57; log 15). -/
def widthOfAddressWidth (aw : Nat) : Nat := if aw % 2 = 0 then 16 else 8

/-- The address width of a frame number: its start bit is its top set bit, at AW + 2 (30_encoding.md R42). -/
def frameAddressWidth (frame : Nat) : Option Nat :=
  [6, 7, 8, 9, 10, 11].find? fun aw => frame >>> (aw + 2) == 1

/-- The bits hi down to lo of a number (00_scope.md section 4.1). -/
def bitsOf (x hi lo : Nat) : Nat := (x >>> lo) % 2 ^ (hi - lo + 1)

/-- A request without an operand word. -/
def plainRequest (aw : Nat) (operand : Nat) (i : Instr) : Except DecodeError Decoded :=
  if operand = 0 then .ok ⟨some aw, i⟩ else .error .strayOperand

/-- The control frame of address width `aw` (30_encoding.md R44, R45). -/
def decodeControl (aw frame operand : Nat) : Except DecodeError Decoded :=
  if bitsOf frame (aw - 3) 0 ≠ 0 then .error .fillerNotZero
  else
    match bitsOf frame (aw - 1) (aw - 2) with
    | 0b00 => plainRequest aw operand .disableWrite
    | 0b01 =>
      if operand < 2 ^ widthOfAddressWidth aw then .ok ⟨some aw, .writeAll operand⟩ else .error .payloadTooWide
    | 0b10 => plainRequest aw operand .eraseAll
    | _ => plainRequest aw operand .enableWrite

/-- The frame of address width `aw` (30_encoding.md R43, R46): the opcode, then the sub-command or the address.
`read` and `read_sequential` have one frame; an operand word 0 is `read`, k + 1 is a count of k (log 14). -/
def decodeFrame (aw frame operand : Nat) : Except DecodeError Decoded :=
  let addr := bitsOf frame (aw - 1) 0
  match bitsOf frame (aw + 1) aw with
  | 0b00 => decodeControl aw frame operand
  | 0b01 =>
    if operand < 2 ^ widthOfAddressWidth aw then .ok ⟨some aw, .write addr operand⟩ else .error .payloadTooWide
  | 0b10 =>
    match operand with
    | 0 => .ok ⟨some aw, .read addr⟩
    | k + 1 => .ok ⟨some aw, .readSequential addr k⟩
  | _ => plainRequest aw operand (.erase addr)

/-- A record's two numbers. The frame number 0 is the frame of no bits, the table's row of `is_write_enabled`
(30_encoding.md, opening paragraph; log 14). -/
def decodeNumbers (frame operand : Nat) : Except DecodeError Decoded :=
  if frame = 0 then
    if operand = 0 then .ok ⟨none, .isWriteEnabled⟩ else .error .strayOperand
  else
    match frameAddressWidth frame with
    | none => .error .notAFrame
    | some aw => decodeFrame aw frame operand

/-- Two bytes as a number, the least significant byte first. -/
def numberOfBytes (lo hi : Byte) : Nat := lo.toNat + 256 * hi.toNat

/-- The decoder: total on any bytes; the request at their front, and the bytes after it. -/
def decode : List Byte → Except DecodeError (Decoded × List Byte)
  | b0 :: b1 :: b2 :: b3 :: rest =>
    match decodeNumbers (numberOfBytes b0 b1) (numberOfBytes b2 b3) with
    | .ok d => .ok (d, rest)
    | .error e => .error e
  | _ => .error .truncated

/-- A number below 2^16 as two bytes, the least significant byte first. -/
def bytesOfNumber (x : Nat) : List Byte := [BitVec.ofNat 8 x, BitVec.ofNat 8 (x / 256)]

/-- The four bytes whose bits, counted from bit 0 of the first byte, are `w`. -/
def bytesOfWord (w : Nat) : List Byte := bytesOfNumber w ++ bytesOfNumber (w / 65536)

/-- The decoder on the opcode table's numbering: bit 0 of `w` is the frame's last bit, the start bit is its top
bit, and every bit above `nbits` is 0. -/
def decodeTableWord (nbits w : Nat) : Option Instr :=
  match decode (bytesOfWord (w % 2 ^ nbits)) with
  | .ok (d, _) => some d.instr
  | .error _ => none

/-- The command of a request (41_encoder.md R59, R60): none for `is_write_enabled`. -/
def commandOf (org : Organization) (model : Model) : Instr → Option Encoded
  | .enableWrite => some (encControl (addressWidth org model) .enableWrite)
  | .disableWrite => some (encControl (addressWidth org model) .disableWrite)
  | .isWriteEnabled => none
  | .eraseAll => some (encControl (addressWidth org model) .eraseAll)
  | .writeAll _ => some (encControl (addressWidth org model) .writeAll)
  | .erase a => some (encAddressed (addressWidth org model) (addressMask org model) .erase a)
  | .write a _ => some (encAddressed (addressWidth org model) (addressMask org model) .write a)
  | .read a => some (encAddressed (addressWidth org model) (addressMask org model) .read a)
  | .readSequential a _ => some (encAddressed (addressWidth org model) (addressMask org model) .read a)

/-- The frame number of a request, start bit included (30_encoding.md R42). -/
def frameNumber (org : Organization) (model : Model) (i : Instr) : Nat :=
  match commandOf org model i with
  | none => 0
  | some c => frameOf c

/-- The operand number of a request's record: the payload (30_encoding.md R47), or the count and one. -/
def operandNumber (org : Organization) : Instr → Nat
  | .enableWrite => 0
  | .disableWrite => 0
  | .isWriteEnabled => 0
  | .eraseAll => 0
  | .writeAll v => (encPayload (wordWidth org) v).value
  | .erase _ => 0
  | .write _ v => (encPayload (wordWidth org) v).value
  | .read _ => 0
  | .readSequential _ n => n.toNat + 1

/-- The encoder: the record of a request for an engine of this organization and model. -/
def encode (org : Organization) (model : Model) (i : Instr) : List Byte :=
  bytesOfNumber (frameNumber org model i) ++ bytesOfNumber (operandNumber org i)

/-- An address the operand field holds: AW bits, unsigned (30_encoding.md R46). -/
def addressEncodable (org : Organization) (model : Model) (a : Int) : Bool :=
  decide (0 ≤ a ∧ a < 2 ^ addressWidth org model)

/-- A value the payload holds: W bits, unsigned (30_encoding.md R47). -/
def valueEncodable (org : Organization) (v : Int) : Bool := decide (0 ≤ v ∧ v < 2 ^ wordWidth org)

/-- A count the model's record holds. -/
def countEncodable (n : Int) : Bool := decide (0 ≤ n ∧ n < 65535)

/-- The operands at which the record loses nothing: every value the fields hold. -/
def encodable (org : Organization) (model : Model) : Instr → Bool
  | .enableWrite => true
  | .disableWrite => true
  | .isWriteEnabled => true
  | .eraseAll => true
  | .writeAll v => valueEncodable org v
  | .erase a => addressEncodable org model a
  | .write a v => addressEncodable org model a && valueEncodable org v
  | .read a => addressEncodable org model a
  | .readSequential a n => addressEncodable org model a && countEncodable n

end Sys2Proof
end

