-- ==== Sys2Proof/Machine/Fetch.lean ====
section
/-!
DEFINITION. How a request comes to an engine: the next one the host issues, and the placing of a request given as a
table word (log 16).
-/

namespace Sys2Proof.Machine

/-- The largest organization and model whose frames have this address width (40_geometry.md R57). -/
def chipOfAddressWidth (aw : Nat) : Organization × Model :=
  if aw = 6 then (.org16, .m46)
  else if aw = 7 then (.org8, .m46)
  else if aw = 8 then (.org16, .m66)
  else if aw = 9 then (.org8, .m66)
  else if aw = 10 then (.org16, .m86)
  else (.org8, .m86)

/-- The configuration with frames of address width `aw`: the one given where it has that width. -/
def configurationFor (c : Configuration) : Option Nat → Configuration
  | none => c
  | some aw =>
    if c.aw = aw then c else { c with org := (chipOfAddressWidth aw).1, model := (chipOfAddressWidth aw).2 }

/-- The engine idle, of the frame's address width, and the request at the front of those the host will issue. -/
def State.place (s : State) (d : Decoded) : State :=
  { s with cfg := configurationFor s.cfg d.aw, seq := .idle, requests := s.requests.push d.instr }

end Sys2Proof.Machine
end

