-- ==== Sys2Proof/Machine/Step.lean ====
section
/-! DEFINITION. One step of the machine, and the placing of an instruction for the next step. -/

namespace Sys2Proof.Machine

/-- One step: while a request is in flight, its next event; while idle, the host's next request, or nothing when
the host issues no more (10_state.md R17, 20_memory.md R40, 60_exceptions.md R107, 70_reset_and_hazards.md R109). -/
def step (s : State) : Host.Outcome State Fault Refusal :=
  match s.seq with
  | .busy op pos => .next (s.advance op pos)
  | .idle =>
    match s.requests.next with
    | none => .next s
    | some (i, rest) => exec i { s with requests := rest }

/-- `s` with the request of a table word as the very next to run (log 16); `s` itself where the word is no request. -/
def State.withFetchWord (s : State) (nbits w : Nat) : State :=
  match decode (bytesOfWord (w % 2 ^ nbits)) with
  | .ok (d, _) => s.place d
  | .error _ => s

end Sys2Proof.Machine
end

