-- ==== Sys2Proof/Machine/Trace.lean ====
section
/-!
DEFINITION. The traces and results the spec writes in its shorthand (00_scope.md section 4.5), as functions of the
configuration, the values sent and the outside of DO: what the stepping machine is held against.
-/

namespace Sys2Proof.Machine

/-- `o(b)`: one shifted-out bit, six events (42_transport.md R64). -/
def outCell (c : Configuration) (b : Bit) : List Event :=
  [.drive .di b, .dly .w c.tW, .drive .sk true, .dly .w c.tW, .drive .sk false, .dly .w c.tW]

/-- The trace of `SHIFT_OUT(value, length)` (42_transport.md R64). -/
def shiftOutTrace (c : Configuration) (value : Nat) : Nat → List Event
  | 0 => []
  | m + 1 => outCell c (value.testBit m) ++ shiftOutTrace c value m

/-- `OUT(s)`: the shifted-out bits of a bit string, left to right (00_scope.md section 4.5). -/
def outBits (c : Configuration) : List Bit → List Event
  | [] => []
  | b :: rest => outCell c b ++ outBits c rest

/-- The low `length` bits of a number in wire order, most significant first (20_memory.md R26). -/
def msbFirst : Nat → Nat → List Bit
  | 0, _ => []
  | m + 1, x => x.testBit m :: msbFirst m x

/-- `i(b)`: one shifted-in bit, five events (42_transport.md R65). -/
def inCell (c : Configuration) (b : Bit) : List Event :=
  [.drive .sk true, .dly .r c.tR, .smp b, .drive .sk false, .dly .r c.tR]

/-- The trace of `SHIFT_IN(length)` against the outside `d` (42_transport.md R65). -/
def shiftInTrace (c : Configuration) (d : DoInput) : Nat → List Event
  | 0 => []
  | m + 1 => inCell c d.bit ++ shiftInTrace c d.next m

/-- What `SHIFT_IN(length)` returns: the first sample lands at bit `length - 1`, the last at bit 0
(42_transport.md R65 (a)). -/
def shiftInWord (d : DoInput) : Nat → Word
  | 0 => 0
  | m + 1 => (Word.ofBit d.bit <<< m) ||| shiftInWord d.next m

/-- The trace of k words shifted in one after the other (42_transport.md R70). -/
def wordsTrace (c : Configuration) (d : DoInput) : Nat → List Event
  | 0 => []
  | k + 1 => shiftInTrace c d c.w ++ wordsTrace c (d.after c.w) k

/-- The k words shifted in one after the other (42_transport.md R70). -/
def shiftInWords (c : Configuration) (d : DoInput) : Nat → List Word
  | 0 => []
  | k + 1 => shiftInWord d c.w :: shiftInWords c (d.after c.w) k

/-- k failed polls (42_transport.md R66). -/
def failedPolls (c : Configuration) : Nat → List Event
  | 0 => []
  | k + 1 => [.smp false, .dly .p c.tP] ++ failedPolls c k

/-- The ready-wait that fails k times and then succeeds (42_transport.md R66). -/
def readyTrace (c : Configuration) (k : Nat) : List Event := failedPolls c k ++ [.smp true]

/-- The payload's shift-out, where there is one (42_transport.md R70). -/
def payloadTrace (c : Configuration) : Option Encoded → List Event
  | none => []
  | some p => shiftOutTrace c p.value p.length

/-- The envelope from `CS=1` to the last bit out: CS assert, start bit, command, payload (42_transport.md R70). -/
def sendTrace (c : Configuration) (e : EnvelopeArgs) : List Event :=
  [.drive .cs true, .dly .cs c.tCS] ++ shiftOutTrace c 1 1 ++ shiftOutTrace c e.cmd.value e.cmd.length ++
    payloadTrace c e.payload

/-- The trace of the whole envelope against the outside `d`, with k failed polls where it waits (42_transport.md R70). -/
def envelopeTrace (c : Configuration) (e : EnvelopeArgs) (d : DoInput) (k : Nat) : List Event :=
  sendTrace c e ++ wordsTrace c d e.inWords ++ (if e.wait then readyTrace c k else []) ++ [.drive .cs false]

/-- The number of events of the envelope (42_transport.md R70, 70_reset_and_hazards.md R119). -/
def envelopeEvents (c : Configuration) (e : EnvelopeArgs) (k : Nat) : Nat :=
  2 + 6 * (1 + e.cmd.length) + 6 * ((e.payload.map Encoded.length).getD 0) + 5 * (c.w * e.inWords) +
    (if e.wait then 2 * k + 1 else 0) + 1

/-- The last value the envelope shifts out: the payload, else the command (42_transport.md R72). -/
def lastOut (e : EnvelopeArgs) : Nat := ((e.payload.map Encoded.value).getD e.cmd.value)

/-- The level of a line after a trace: the last drive of it, no value where there is none (10_state.md R14). -/
def lastDriven (line : Line) (start : Latch) : List Event → Latch
  | [] => start
  | .drive l b :: rest => lastDriven line (if l = line then Latch.ofBit b else start) rest
  | .dly _ _ :: rest => lastDriven line start rest
  | .smp _ :: rest => lastDriven line start rest

end Sys2Proof.Machine
end

