-- ==== Sys2Proof/Safety.lean ====
section
/-!
DEFINITION. The terms claims are stated in: runs of several steps, what the outside of DO does in a ready-wait, and the
invariant of the machine.
-/

namespace Sys2Proof.Machine

/-- k steps, stopping at the first fault or refusal. -/
def stepN : Nat → State → Host.Outcome State Fault Refusal
  | 0, s => .next s
  | k + 1, s =>
    match step s with
    | .next t => stepN k t
    | .fault e => .fault e
    | .refused e => .refused e

/-- The outside answers k zeros and then a one: a ready-wait that begins now fails k times and then succeeds. -/
def ReadyAfter (d : DoInput) (k : Nat) : Prop := (∀ j, j < k → d.nth j = false) ∧ d.nth k = true

/-- The outside answers zeros for ever (60_exceptions.md R99). -/
def NeverReady (d : DoInput) : Prop := ∀ j, d.nth j = false

/-- The host never stops issuing requests (60_exceptions.md R107: an infinite sequence). -/
def Endless (h : HostCalls) : Prop := h.tail ≠ .ends

/-- Every request the host will issue is admitted (decision D9); a free one always is. -/
def Admitted (h : HostCalls) : Prop :=
  (∀ i ∈ h.queue, i.wellFormed = true) ∧
    ∀ first rest, h.tail = .repeats first rest → ∀ i ∈ first :: rest, i.wellFormed = true

/-- The outside answers a one to every sample from now on. -/
def AlwaysReady (d : DoInput) : Prop := ∀ j, d.nth j = true

/-- The opted-in limit, if there is one, lets a ready-wait fail k times (42_transport.md R69). -/
def LimitAllows (c : Configuration) (k : Nat) : Prop := ∀ limit, c.readyLimit = some limit → k ≤ limit

/-- The wire bits of a control frame: start bit, opcode 00, sub-command, `AW - 2` zeros (30_encoding.md R45). -/
def controlBits (c : Configuration) (hi lo : Bit) : List Bit :=
  [true, false, false, hi, lo] ++ List.replicate (c.aw - 2) false

/-- The wire bits of an addressed frame: start bit, opcode, the address of AW bits (30_encoding.md R46). -/
def addressedBits (c : Configuration) (hi lo : Bit) (addr : Int) : List Bit :=
  [true, hi, lo] ++ msbFirst c.aw addr.toNat

/-- The wire bits of a payload: the W low bits of the value (30_encoding.md R47). -/
def payloadBits (c : Configuration) (value : Int) : List Bit := msbFirst c.w (value % 2 ^ c.w).toNat

/-- The trace from `CS=1` to the last of the bits sent. -/
def sentBits (c : Configuration) (bits : List Bit) : List Event :=
  [.drive .cs true, .dly .cs c.tCS] ++ outBits c bits

/-- `s` after a request that sends `bits` and returns none, with no wait and no word in. -/
def State.afterFrame (s : State) (bits : List Bit) : State :=
  { s with
    cs := .low, sk := .low, di := Latch.ofBit (bits.getLastD false), i := 0, words := [],
    trace := s.trace ++ sentBits s.cfg bits ++ [.drive .cs false], replies := s.replies ++ [.none] }

/-- `s` after a request that sends `bits`, waits through k failed polls, and returns none. -/
def State.afterWait (s : State) (bits : List Bit) (k : Nat) : State :=
  { s with
    cs := .low, sk := .low, di := Latch.ofBit (bits.getLastD false), i := 0, words := [], polls := k,
    doIn := s.doIn.after (k + 1),
    trace := s.trace ++ sentBits s.cfg bits ++ readyTrace s.cfg k ++ [.drive .cs false],
    replies := s.replies ++ [.none] }

/-- `s` after a request that sends `bits` and runs out of the opted-in limit (42_transport.md R69). -/
def State.afterTimeout (s : State) (bits : List Bit) (limit : Nat) : State :=
  { s with
    cs := .low, sk := .low, di := Latch.ofBit (bits.getLastD false), i := 0, words := [], polls := limit,
    doIn := s.doIn.after (limit + 1),
    trace := s.trace ++ sentBits s.cfg bits ++ failedPolls s.cfg limit ++ [.smp false, .drive .cs false],
    replies := s.replies ++ [.error (.hardwareTimeout limit)] }

/-- `s` after a request that sends `bits` and shifts in n words, with its reply. -/
def State.afterRead (s : State) (bits : List Bit) (n : Nat) (r : Reply) : State :=
  { s with
    cs := .low, sk := .low, di := Latch.ofBit (bits.getLastD false), i := 0,
    acc := (shiftInWords s.cfg s.doIn n).getLastD s.acc, words := shiftInWords s.cfg s.doIn n,
    doIn := s.doIn.after (s.cfg.w * n),
    trace := s.trace ++ sentBits s.cfg bits ++ wordsTrace s.cfg s.doIn n ++ [.drive .cs false],
    replies := s.replies ++ [r] }

/-- `u` runs for ever without a return: every number of steps leads to a busy state with CS high and SK low, in which
the host has got nothing more and no later request has been accepted, once the first `k` steps are done
(60_exceptions.md R99). -/
def HangsAfter (k : Nat) (u : State) : Prop :=
  ∀ n, ∃ t, stepN n u = .next t ∧ t.replies = u.replies ∧ t.requests = u.requests ∧ t.seq ≠ .idle ∧
    (k ≤ n → t.cs = .high ∧ t.sk = .low ∧ ∃ op p, t.seq = .busy op (.readyWait p))

/-- `u`, a request accepted from `s` with its operands loaded, sends `bits`, six steps a bit, and waits: it returns where
the outside answers a one, hangs where it never does and no limit was opted in, and raises the timeout where the
opted-in limit is run out of (42_transport.md R66, R69, 60_exceptions.md R99). The limit and the timeout are the
spec's own choice (decision D6), the count of failed polls left in `polls`, with no limit too, the model's (log 20). -/
def SendsAndWaits (s u : State) (bits : List Bit) : Prop :=
  (∀ k, ReadyAfter s.doIn k → LimitAllows s.cfg k →
    stepN (3 + 6 * bits.length + 2 * k) u = .next (s.afterWait bits k)) ∧
  (NeverReady s.doIn → s.cfg.readyLimit = none → HangsAfter (1 + 6 * bits.length) u) ∧
  ∀ limit, s.cfg.readyLimit = some limit → (∀ j, j ≤ limit → s.doIn.nth j = false) →
    stepN (3 + 6 * bits.length + 2 * limit) u = .next (s.afterTimeout bits limit)

/-- The four requests the latch guards (60_exceptions.md R101). -/
def Op.guarded : Op → Bool
  | .eraseAll => true
  | .writeAll => true
  | .erase => true
  | .write => true
  | .enableWrite => false
  | .disableWrite => false
  | .read => false
  | .readSequential => false

/-- The four requests with an address (44_addressed_ops.md R80). -/
def Op.addressed : Op → Bool
  | .erase => true
  | .write => true
  | .read => true
  | .readSequential => true
  | .enableWrite => false
  | .disableWrite => false
  | .eraseAll => false
  | .writeAll => false

/-- The fields a shift-out sends (42_transport.md R70). -/
inductive OutField
  | start | command | payload
deriving DecidableEq, Repr

/-- The positions of a field's shift-out. -/
def OutField.pos : OutField → OutPhase → Pos
  | .start => .start
  | .command => .command
  | .payload => .payloadOut

/-- The value a field's shift-out sends. -/
def OutField.value (f : OutField) (e : EnvelopeArgs) : Nat :=
  match f with
  | .start => 1
  | .command => e.cmd.value
  | .payload => (e.payload.map Encoded.value).getD 0

/-- The length of a field's shift-out. -/
def OutField.length (f : OutField) (e : EnvelopeArgs) : Nat :=
  match f with
  | .start => 1
  | .command => e.cmd.length
  | .payload => (e.payload.map Encoded.length).getD 0

/-- What follows a field's shift-out. -/
def OutField.follow (f : OutField) (op : Op) (s : State) : State :=
  match f with
  | .start => s.afterStart op
  | .command => s.afterCommand op
  | .payload => s.afterPayload op

/-- SK and DI within a shifted-out bit (42_transport.md R64): SK is not high before its rise, high until its fall, low
after it; DI holds the bit from its drive on. -/
def outLines (s : State) (value : Nat) : OutPhase → Prop
  | .di => s.sk ≠ .high
  | .dly1 => s.sk ≠ .high ∧ s.di = Latch.ofBit (value.testBit s.i)
  | .skHigh => s.sk ≠ .high ∧ s.di = Latch.ofBit (value.testBit s.i)
  | .dly2 => s.sk = .high ∧ s.di = Latch.ofBit (value.testBit s.i)
  | .skLow => s.sk = .high ∧ s.di = Latch.ofBit (value.testBit s.i)
  | .dly3 => s.sk = .low ∧ s.di = Latch.ofBit (value.testBit s.i)

/-- SK within a shifted-in bit (42_transport.md R65). -/
def inLines (s : State) : InPhase → Prop
  | .skHigh => s.sk = .low
  | .dly1 => s.sk = .high
  | .sample => s.sk = .high
  | .skLow => s.sk = .high
  | .dly2 => s.sk = .low

/-- The bits of ACC not yet sampled are 0: those below the bit index, and the bit of the index itself before its
sample (42_transport.md R65). -/
def accPending (s : State) : InPhase → Prop
  | .skHigh => ∀ j, j ≤ s.i → s.acc.getLsbD j = false
  | .dly1 => ∀ j, j ≤ s.i → s.acc.getLsbD j = false
  | .sample => ∀ j, j ≤ s.i → s.acc.getLsbD j = false
  | .skLow => ∀ j, j < s.i → s.acc.getLsbD j = false
  | .dly2 => ∀ j, j < s.i → s.acc.getLsbD j = false

/-- A word fits the configured width (10_state.md R16, 44_addressed_ops.md R83). -/
def fits (c : Configuration) (w : Word) : Prop := w.toNat < 2 ^ c.w

/-- What holds at a position of the request in flight. -/
def posInv (s : State) (op : Op) : Pos → Prop
  | .csAssert => s.sk ≠ .high ∧ s.words = []
  | .start p => s.i = 0 ∧ s.words = [] ∧ outLines s 1 p
  | .command p =>
    s.i < (s.envelope op).cmd.length ∧ s.words = [] ∧ outLines s (s.envelope op).cmd.value p
  | .payloadOut p =>
    ∃ e, (s.envelope op).payload = some e ∧ s.i < e.length ∧ s.words = [] ∧ outLines s e.value p
  | .wordIn k p =>
    k < (s.envelope op).inWords ∧ s.words.length = k ∧ s.i < s.cfg.w ∧ fits s.cfg s.acc ∧ inLines s p ∧
      accPending s p ∧ s.di = Latch.ofBit ((lastOut (s.envelope op)).testBit 0)
  | .readyWait p =>
    (s.envelope op).wait = true ∧ s.words.length = (s.envelope op).inWords ∧ s.sk = .low ∧
      s.di = Latch.ofBit ((lastOut (s.envelope op)).testBit 0) ∧
      ∀ limit, s.cfg.readyLimit = some limit → s.polls ≤ limit ∧ (p = .dly → s.polls < limit)
  | .csDeassert =>
    s.words.length = (s.envelope op).inWords ∧ s.sk = .low ∧
      s.di = Latch.ofBit ((lastOut (s.envelope op)).testBit 0)
  | .timeoutDeassert limit =>
    (s.envelope op).wait = true ∧ s.cfg.readyLimit = some limit ∧ s.sk = .low ∧
      s.di = Latch.ofBit ((lastOut (s.envelope op)).testBit 0)

/-- What holds of the sequencer and the lines. Idle: nothing has been driven yet, or CS and SK are low and DI holds a
level (10_state.md R23, 42_transport.md R72). Busy: CS is high, a guarded request runs only with the latch
set, an addressed one only with its address in range, and the position's own facts hold. -/
def seqInv (s : State) : Prop :=
  match s.seq with
  | .idle =>
    (s.trace = [] ∧ s.cs = .noValue ∧ s.sk = .noValue ∧ s.di = .noValue) ∨
      (s.trace ≠ [] ∧ s.cs = .low ∧ s.sk = .low ∧ s.di ≠ .noValue)
  | .busy op pos =>
    s.trace ≠ [] ∧ s.cs = .high ∧ (op.guarded = true → s.wen = true) ∧
      (op.addressed = true → addressInRange s.cfg s.a = true) ∧ posInv s op pos

/-- THE INVARIANT of the machine: the sequencer and the lines agree, every word shifted in fits the configured width,
and each latch is the level last driven on its line (10_state.md R14). -/
def Inv (s : State) : Prop :=
  seqInv s ∧ (∀ w ∈ s.words, fits s.cfg w) ∧ s.cs = lastDriven .cs .noValue s.trace ∧
    s.sk = lastDriven .sk .noValue s.trace ∧ s.di = lastDriven .di .noValue s.trace

/-- Two states that differ at most in what a rule never reads between requests: A, V, N, ACC, I, and the envelope's
own result list and poll count (10_state.md R23). -/
def SameBetweenRequests (s t : State) : Prop :=
  s.cfg = t.cfg ∧ s.wen = t.wen ∧ s.cs = t.cs ∧ s.sk = t.sk ∧ s.di = t.di ∧ s.seq = t.seq ∧
    s.requests = t.requests ∧ s.doIn = t.doIn ∧ s.trace = t.trace ∧ s.replies = t.replies

/-- Two outcomes of the same kind, with related states. -/
def sameOutcome (r : State → State → Prop) :
    Host.Outcome State Fault Refusal → Host.Outcome State Fault Refusal → Prop
  | .next s, .next t => r s t
  | .fault e, .fault f => e = f
  | .refused e, .refused f => e = f
  | _, _ => False

/-- An event without the count of a delay. -/
def Event.shape : Event → Event
  | .drive l b => .drive l b
  | .dly k _ => .dly k 0
  | .smp b => .smp b

/-- Two states that differ at most in the four delay counts and in the counts the trace's delay events carry. -/
def SameButDelays (s t : State) : Prop :=
  s.cfg.model = t.cfg.model ∧ s.cfg.org = t.cfg.org ∧ s.cfg.readyLimit = t.cfg.readyLimit ∧
    s.cfg.guardOrder = t.cfg.guardOrder ∧ s.wen = t.wen ∧ s.cs = t.cs ∧ s.sk = t.sk ∧ s.di = t.di ∧ s.a = t.a ∧
    s.v = t.v ∧ s.n = t.n ∧ s.acc = t.acc ∧ s.i = t.i ∧ s.seq = t.seq ∧ s.words = t.words ∧ s.polls = t.polls ∧
    s.requests = t.requests ∧ s.doIn = t.doIn ∧ s.trace.map Event.shape = t.trace.map Event.shape ∧
    s.replies = t.replies

end Sys2Proof.Machine
end

