-- ==== Sys2Proof/Certificates/Slice0/Obligations.lean ====
section
/-!
DEFINITION. The statements about the model. Each docstring names the rule or section of the spec it formalises. The level
mapping (asserted CS is high, a 1 bit is high) is the spec's decision D2 throughout, and the samples before which no
delay stands in the ready-wait are its decision D5.
-/

open Sys2Proof Sys2Proof.Machine

/-! ## Geometry, construction, encoders -/

/-- 40_geometry.md section 3 (the table the spec derives): WC, AW, AM, W of all ten configurations. -/
def Obligations.TenConfigurationsHaveTheListedGeometry : Prop :=
  [Model.m46, .m56, .m66, .m76, .m86].map
      (fun m => (wordCount .org8 m, addressWidth .org8 m, addressMask .org8 m, wordWidth .org8)) =
    [(128, 7, 0x7F, 8), (256, 9, 0x1FF, 8), (512, 9, 0x1FF, 8), (1024, 11, 0x7FF, 8), (2048, 11, 0x7FF, 8)] ∧
  [Model.m46, .m56, .m66, .m76, .m86].map
      (fun m => (wordCount .org16 m, addressWidth .org16 m, addressMask .org16 m, wordWidth .org16)) =
    [(64, 6, 0x3F, 16), (128, 8, 0xFF, 16), (256, 8, 0xFF, 16), (512, 10, 0x3FF, 16), (1024, 10, 0x3FF, 16)]

/-- 40_geometry.md section 4: the mask never clips a legal address, and a legal address fits the operand field. -/
def Obligations.MaskNeverClipsALegalAddress : Prop :=
  ∀ (c : Configuration) (addr : Int), addressInRange c addr = true →
    (maskInt addr c.am : Int) = addr ∧ addr < 2 ^ c.aw

/-- 60_exceptions.md R88: construction with an invalid model or organization leaves no engine; with valid ones it
gives one; and no step of an engine raises the error. Which argument the error names when both are bad is left
open here (93_implementation_defined.md U7). -/
def Obligations.ConstructionFailsExactlyOnBadArguments : Prop :=
  (∀ (model org : Int) (tCS tW tR tP : Nat),
    (model ∉ [46, 56, 66, 76, 86] ∨ org ∉ [8, 16] →
      ∃ info, (info = model ∨ info = org) ∧
        construct model org tCS tW tR tP = .fault (.noEngine (.configurationError info))) ∧
    (model ∈ [46, 56, 66, 76, 86] ∧ org ∈ [8, 16] → ∃ s, construct model org tCS tW tR tP = .next s)) ∧
  ∀ (s : State) (e : Fault), step s ≠ .fault e

/-- 10_state.md section 10 and 70_reset_and_hazards.md section 1: what a successful construction leaves: the
arguments, the latch disabled, no value on any line (decision D3), an idle sequencer, no event, no bound on the
ready-wait; and the reset state is such an engine (its arguments are the model's choice, log 4 and log 5). -/
def Obligations.ConstructedEngineIsIdleDisabledAndSilent : Prop :=
  (∀ (model org : Int) (tCS tW tR tP : Nat) (s : State), construct model org tCS tW tR tP = .next s →
    organizationOf org = some s.cfg.org ∧ modelOf model = some s.cfg.model ∧
    s.cfg.tCS = tCS ∧ s.cfg.tW = tW ∧ s.cfg.tR = tR ∧ s.cfg.tP = tP ∧ s.cfg.readyLimit = none ∧
    s.wen = false ∧ s.cs = .noValue ∧ s.sk = .noValue ∧ s.di = .noValue ∧ s.seq = .idle ∧ s.trace = [] ∧
    s.replies = []) ∧
  construct 56 16 0 0 0 0 = .next State.reset

/-- 30_encoding.md R45: the bits of a control frame's command value: the sub-command in bits AW-1 and AW-2, every
other bit 0, and the length AW + 2. -/
def Obligations.ControlFrameHoldsOnlyItsSubCommand : Prop :=
  ∀ (c : Configuration) (sub : SubCommand) (j : Nat),
    (encControl c.aw sub).length = c.aw + 2 ∧
    (encControl c.aw sub).value.testBit j =
      (if j = c.aw - 1 then sub.code.testBit 1 else if j = c.aw - 2 then sub.code.testBit 0 else false)

/-- 30_encoding.md R46: the bits of an addressed frame's command value: the address below, the opcode in bits AW and
AW+1, nothing above, and the length AW + 2. -/
def Obligations.AddressedFrameHoldsOpcodeAndAddress : Prop :=
  ∀ (c : Configuration) (opc : Opcode) (addr : Nat) (j : Nat),
    (encAddressed c.aw c.am opc addr).length = c.aw + 2 ∧
    (encAddressed c.aw c.am opc addr).value.testBit j =
      (if j < c.aw then addr.testBit j else if j < c.aw + 2 then opc.code.testBit (j - c.aw) else false)

/-- 41_encoder.md, ENC_PAYLOAD and ENC_ADDRESSED on every integer: a payload is the value modulo 2^W and the operand
field the address modulo 2^AW, negative ones included (decision D9). -/
def Obligations.OperandsAreReducedModuloTheirFields : Prop :=
  ∀ (c : Configuration) (x : Int),
    ((encPayload c.w x).value : Int) = x % 2 ^ c.w ∧ (encPayload c.w x).length = c.w ∧
    (maskInt x c.am : Int) = x % 2 ^ c.aw

/-- 42_transport.md section 1 corner case (a): bits of the value at and above the length are never read. -/
def Obligations.ShiftOutNeverReadsHigherBits : Prop :=
  ∀ (c : Configuration) (value m : Nat), shiftOutTrace c value m = shiftOutTrace c (value % 2 ^ m) m

/-! ## Micro-operations -/

/-- 42_transport.md section 1: within any shift-out (start bit, command or payload) a bit takes six steps whose events
are o(b) for the bit at the index; then the index goes down by one, or the next part of the envelope follows. -/
def Obligations.ShiftedOutBitIsItsSixEvents : Prop :=
  ∀ (s : State) (op : Op) (f : OutField), s.seq = .busy op (f.pos .di) →
    let b := (f.value (s.envelope op)).testBit s.i
    let u := { s with sk := .low, di := Latch.ofBit b, trace := s.trace ++ outCell s.cfg b }
    stepN 6 s = .next (if s.i = 0 then f.follow op u else { u with i := s.i - 1 })

/-- 42_transport.md section 2: within any shift-in a bit takes five steps whose events are i(b) for the bit the outside
answers; that bit, and no other, is ORed into the accumulator at the index; DI is not driven. -/
def Obligations.ShiftedInBitIsItsFiveEvents : Prop :=
  ∀ (s : State) (op : Op) (k m : Nat), s.seq = .busy op (.wordIn k .skHigh) → s.i = m + 1 →
    stepN 5 s = .next { s with
      i := m, sk := .low, acc := s.acc ||| (Word.ofBit s.doIn.bit <<< (m + 1)), doIn := s.doIn.next,
      trace := s.trace ++ inCell s.cfg s.doIn.bit }

/-- 42_transport.md section 2 corner case (a): the word a whole shift-in gives holds the samples most significant
first and nothing else. -/
def Obligations.ShiftedInWordHoldsItsSamples : Prop :=
  ∀ (d : DoInput) (len j : Nat), len ≤ 16 →
    (shiftInWord d len).getLsbD j = (if j < len then d.nth (len - 1 - j) else false)

/-- 42_transport.md section 3: a ready-wait that sees k zeros and then a one takes 2k + 1 steps with exactly those
events, drives no line, and leads to the deassertion of CS. The limit k stays within is decision D6
(section 5); that `polls` ends at k, with no limit too, is the model's choice (log 20). -/
def Obligations.ReadyWaitEndsAtTheFirstOne : Prop :=
  ∀ (s : State) (op : Op) (k : Nat), s.seq = .busy op (.readyWait .sample) → s.polls = 0 →
    ReadyAfter s.doIn k → LimitAllows s.cfg k →
    stepN (2 * k + 1) s = .next { s with
      seq := .busy op .csDeassert, polls := k, doIn := s.doIn.after (k + 1),
      trace := s.trace ++ readyTrace s.cfg k }

/-- 60_exceptions.md R99: where the outside answers zeros for ever, a ready-wait of the baseline goes on for ever: after
any number of steps it has produced that many events, is still in the ready-wait with its lines as they were, has
returned nothing and accepted nothing. -/
def Obligations.ReadyWaitHangsWithoutAOne : Prop :=
  ∀ (s : State) (op : Op) (p : PollPhase), s.seq = .busy op (.readyWait p) → s.cfg.readyLimit = none →
    NeverReady s.doIn →
    ∀ n, ∃ t q, stepN n s = .next t ∧ t.seq = .busy op (.readyWait q) ∧ t.cs = s.cs ∧ t.sk = s.sk ∧ t.di = s.di ∧
      t.wen = s.wen ∧ t.replies = s.replies ∧ t.requests = s.requests ∧ t.trace.length = s.trace.length + n ∧
      ∀ m, p = .sample → n = 2 * m → t.trace = s.trace ++ failedPolls s.cfg m

/-- 42_transport.md section 5 (the spec's decision D6): the opted-in ready-wait that sees limit + 1 zeros lowers CS
and ends the request with the timeout; WEN is left as it was. -/
def Obligations.BoundedReadyWaitTimesOut : Prop :=
  ∀ (s : State) (op : Op) (limit : Nat), s.seq = .busy op (.readyWait .sample) → s.polls = 0 →
    s.cfg.readyLimit = some limit → (∀ j, j ≤ limit → s.doIn.nth j = false) →
    stepN (2 * limit + 2) s = .next { s with
      seq := .idle, cs := .low, polls := limit, doIn := s.doIn.after (limit + 1),
      trace := s.trace ++ failedPolls s.cfg limit ++ [.smp false, .drive .cs false],
      replies := s.replies ++ [.error (.hardwareTimeout limit)] }

/-- 42_transport.md section 6 (the envelope of R70). For every request and every state, the machine, one event a step from `CS=1` on, does
exactly what the envelope procedure does: the same events in the same order, and at its end the lines, the latch,
the words, the outside of DO and the reply the procedure leaves; everything else is as it was. No request has both a
payload and incoming words, none has incoming words and a wait. The opted-in limit is decision D6; that `polls`
ends at k, with no limit too, is the model's choice (log 20). -/
def Obligations.SteppingRefinesTheEnvelopeProcedure : Prop :=
  ∀ (s : State) (op : Op) (k : Nat),
    ((s.envelope op).inWords ≠ 0 → (s.envelope op).payload = none ∧ (s.envelope op).wait = false) ∧
    (((s.envelope op).wait = true → ReadyAfter s.doIn k ∧ LimitAllows s.cfg k) →
    stepN (envelopeEvents s.cfg (s.envelope op) k - 1) (s.launch op) = .next
      { s with
        seq := .idle, wen := wenAfter op s.wen, cs := .low, sk := .low,
        di := Latch.ofBit ((lastOut (s.envelope op)).testBit 0), i := 0,
        acc := (shiftInWords s.cfg s.doIn (s.envelope op).inWords).getLastD s.acc,
        words := shiftInWords s.cfg s.doIn (s.envelope op).inWords,
        polls := if (s.envelope op).wait then k else s.polls,
        doIn := s.doIn.after (s.cfg.w * (s.envelope op).inWords + if (s.envelope op).wait then k + 1 else 0),
        trace := s.trace ++ envelopeTrace s.cfg (s.envelope op) s.doIn k,
        replies := s.replies ++
          [(s.setWords (shiftInWords s.cfg s.doIn (s.envelope op).inWords)).result op] })

/-! ## The requests -/

/-- 43_control_ops.md R75: whatever WEN holds, the frame `1 00 11 0...0` goes out and WEN is 1; everything not named is
as it was. -/
def Obligations.EnableWriteSendsItsFrameAndSetsTheLatch : Prop :=
  ∀ s : State, s.seq = .idle →
    ∃ u, exec .enableWrite s = .next u ∧
      stepN (2 + 6 * (s.cfg.aw + 3)) u = .next { s.afterFrame (controlBits s.cfg true true) with wen := true }

/-- 43_control_ops.md R76: whatever WEN holds, the frame `1 00 00 0...0` goes out and WEN is 0; everything not named is
as it was. -/
def Obligations.DisableWriteSendsItsFrameAndClearsTheLatch : Prop :=
  ∀ s : State, s.seq = .idle →
    ∃ u, exec .disableWrite s = .next u ∧
      stepN (2 + 6 * (s.cfg.aw + 3)) u = .next { s.afterFrame (controlBits s.cfg false false) with wen := false }

/-- 43_control_ops.md R77: a pure read of the latch: the reply is WEN, no event, nothing else changes. -/
def Obligations.IsWriteEnabledAnswersTheLatch : Prop :=
  ∀ s : State, s.seq = .idle →
    exec .isWriteEnabled s = .next { s with replies := s.replies ++ [.boolean s.wen] }

/-- 43_control_ops.md section 2, `erase_all` (R78): with WEN = 0 nothing but the return; with WEN = 1 the frame `1 00 10 0...0` and the
ready-wait: it returns where the outside answers a one, hangs where it never does, and times out where a limit was
opted in and is run out of. The limit and the timeout are decision D6; that `polls` counts with no limit too is the
model's choice (log 20). -/
def Obligations.EraseAllSendsItsFrameAndWaits : Prop :=
  ∀ s : State, s.seq = .idle →
    (s.wen = false → exec .eraseAll s = .next { s with replies := s.replies ++ [.none] }) ∧
    (s.wen = true → ∃ u, exec .eraseAll s = .next u ∧ SendsAndWaits s u (controlBits s.cfg true false))

/-- 43_control_ops.md section 2, `write_all` (R79): as `erase_all`, with the frame `1 00 01 0...0`, then the W low bits
of the value. The limit and the timeout are decision D6, the count without a limit the model's (log 20); a
negative value goes out modulo 2^W by decision D9 (log 17). -/
def Obligations.WriteAllSendsItsFrameAndPayloadAndWaits : Prop :=
  ∀ (s : State) (value : Int), s.seq = .idle →
    (s.wen = false → exec (.writeAll value) s = .next { s with replies := s.replies ++ [.none] }) ∧
    (s.wen = true → ∃ u, exec (.writeAll value) s = .next u ∧
      SendsAndWaits (s.loadV value) u (controlBits s.cfg false true ++ payloadBits s.cfg value))

/-- 44_addressed_ops.md section 2, `erase` (the guard before the range check is decision D7): with the latch set and
the address in range the frame `1 11 address` and the ready-wait. The limit and the timeout are decision D6; that
`polls` counts with no limit too is the model's choice (log 20). -/
def Obligations.EraseSendsItsFrameAndWaits : Prop :=
  ∀ (s : State) (addr : Int), s.seq = .idle → s.wen = true → addressInRange s.cfg addr = true →
    ∃ u, exec (.erase addr) s = .next u ∧ SendsAndWaits (s.loadA addr) u (addressedBits s.cfg true true addr)

/-- 44_addressed_ops.md section 2, `write`: with the latch set and the address in range the frame `1 01 address`, the
W low bits of the value, and the ready-wait. The limit and the timeout are decision D6, the count without a limit
the model's (log 20); a negative value goes out modulo 2^W by decision D9 (log 17). -/
def Obligations.WriteSendsItsFrameAndPayloadAndWaits : Prop :=
  ∀ (s : State) (addr value : Int), s.seq = .idle → s.wen = true → addressInRange s.cfg addr = true →
    ∃ u, exec (.write addr value) s = .next u ∧
      SendsAndWaits ((s.loadA addr).loadV value) u (addressedBits s.cfg false true addr ++ payloadBits s.cfg value)

/-- 44_addressed_ops.md R83: whatever WEN holds, with the address in range the frame `1 10 address`, then W bits in,
most significant first; the reply is the word of exactly those bits; out of range the error and nothing else. -/
def Obligations.ReadShiftsInOneWord : Prop :=
  ∀ (s : State) (addr : Int), s.seq = .idle →
    (addressInRange s.cfg addr = true →
      ∃ u w, exec (.read addr) s = .next u ∧
        stepN (2 + 6 * (s.cfg.aw + 3) + 5 * s.cfg.w) u = .next
          ((s.loadA addr).afterRead (addressedBits s.cfg true false addr) 1 (.word w)) ∧
        w.toNat < 2 ^ s.cfg.w ∧ (∀ j, j < s.cfg.w → w.getLsbD (s.cfg.w - 1 - j) = s.doIn.nth j)) ∧
    (addressInRange s.cfg addr = false →
      exec (.read addr) s = .next { s with replies := s.replies ++ [.error (.addressOutOfRange addr)] })

/-- 44_addressed_ops.md section 2, `read_sequential`: one frame, then min(count, WC - addr) words in ascending order
with no event between them (count 0, decision D9: the frame and no word). -/
def Obligations.ReadSequentialShiftsInItsWords : Prop :=
  ∀ (s : State) (addr count : Int), s.seq = .idle → addressInRange s.cfg addr = true → 0 ≤ count →
    ∃ u ws, exec (.readSequential addr count) s = .next u ∧
      (ws.length : Int) = min count (s.cfg.wc - addr) ∧
      stepN (2 + 6 * (s.cfg.aw + 3) + 5 * s.cfg.w * ws.length) u = .next
        (((s.loadA addr).loadN count.toNat).afterRead (addressedBits s.cfg true false addr) ws.length
          (.words ws)) ∧
      ∀ k w, ws[k]? = some w → w.toNat < 2 ^ s.cfg.w ∧
        ∀ j, j < s.cfg.w → w.getLsbD (s.cfg.w - 1 - j) = s.doIn.nth (s.cfg.w * k + j)

/-- 44_addressed_ops.md section 2, `read_sequential` corner case (d): with count 1 the events, the lines and the word are
those of `read`, and the reply is the one-element list of that word. -/
def Obligations.SequentialReadOfOneWordIsARead : Prop :=
  ∀ (s : State) (addr : Int), s.seq = .idle → addressInRange s.cfg addr = true →
    ∃ u u' t t' w, exec (.read addr) s = .next u ∧ exec (.readSequential addr 1) s = .next u' ∧
      stepN (2 + 6 * (s.cfg.aw + 3) + 5 * s.cfg.w) u = .next t ∧
      stepN (2 + 6 * (s.cfg.aw + 3) + 5 * s.cfg.w) u' = .next t' ∧
      t.seq = .idle ∧ t'.seq = .idle ∧ t.trace = t'.trace ∧ t.cs = t'.cs ∧ t.sk = t'.sk ∧ t.di = t'.di ∧
      t.doIn = t'.doIn ∧ t.replies = s.replies ++ [.word w] ∧ t'.replies = s.replies ++ [.words [w]]

/-- 00_scope.md section 4.4 and 42_transport.md section 4: an accepted request loads its operands and drives CS high, in
one step; the engine is then at the settle delay; nothing else changes. -/
def Obligations.AcceptedRequestRaisesChipSelect : Prop :=
  ∀ (s : State) (addr value : Int) (count : Nat), s.seq = .idle →
    let up (t : State) (op : Op) : Host.Outcome State Fault Refusal :=
      .next { t with words := [], cs := .high, seq := .busy op .csAssert, trace := t.trace ++ [.drive .cs true] }
    exec .enableWrite s = up s .enableWrite ∧ exec .disableWrite s = up s .disableWrite ∧
    (s.wen = true →
      exec .eraseAll s = up s .eraseAll ∧ exec (.writeAll value) s = up { s with v := value } .writeAll) ∧
    (addressInRange s.cfg addr = true →
      exec (.read addr) s = up { s with a := addr } .read ∧
      exec (.readSequential addr count) s = up { s with a := addr, n := count } .readSequential ∧
      (s.wen = true →
        exec (.erase addr) s = up { s with a := addr } .erase ∧
        exec (.write addr value) s = up { s with a := addr, v := value } .write))

/-! ## Errors and guards -/

/-- 44_addressed_ops.md R80: an address below 0 or at or above WC, and no other, is an error: no event, no state but the
reply; it is checked for `erase` and `write` (here with the latch set), `read`, and the start of `read_sequential`. -/
def Obligations.AddressIsCheckedAgainstTheWordCount : Prop :=
  ∀ (s : State) (addr value count : Int) (i : Instr), s.seq = .idle → 0 ≤ count →
    (i = .read addr ∨ i = .readSequential addr count ∨ (s.wen = true ∧ (i = .erase addr ∨ i = .write addr value))) →
    (addr < 0 ∨ (s.cfg.wc : Int) ≤ addr →
      exec i s = .next { s with replies := s.replies ++ [.error (.addressOutOfRange addr)] }) ∧
    (0 ≤ addr ∧ addr < (s.cfg.wc : Int) →
      ∃ u, exec i s = .next u ∧ u.replies = s.replies ∧ u.seq ≠ .idle ∧ u.a = addr)

/-- 60_exceptions.md R97: an erase or write request with the latch clear has no event, no error and no effect; under
the rule's order of the guard (`latchFirst`), whatever the address. -/
def Obligations.DisabledEraseAndWriteAreSilentNoOps : Prop :=
  ∀ (s : State) (addr value : Int) (i : Instr), s.seq = .idle → s.wen = false →
    (i = .eraseAll ∨ i = .writeAll value ∨
      ((s.cfg.guardOrder = .latchFirst ∨ addressInRange s.cfg addr = true) ∧
        (i = .erase addr ∨ i = .write addr value))) →
    exec i s = .next { s with replies := s.replies ++ [.none] }

/-- 92_eei_decisions.md D7, the optional parameter: with the address checked first, a bad address is the error
whatever the latch holds. -/
def Obligations.AddressFirstOrderReportsTheError : Prop :=
  ∀ (s : State) (addr value : Int) (i : Instr), s.seq = .idle → s.cfg.guardOrder = .addressFirst →
    addressInRange s.cfg addr = false → (i = .erase addr ∨ i = .write addr value) →
    exec i s = .next { s with replies := s.replies ++ [.error (.addressOutOfRange addr)] }

/-- 60_exceptions.md R98: `read`, `read_sequential`, `enable_write`, `disable_write` never test WEN and always run: with
the latch inverted they answer the same next state but for the latch; and `is_write_enabled` runs with either. -/
def Obligations.LatchDoesNotGuardTheOtherRequests : Prop :=
  ∀ (s : State) (addr count : Int) (i : Instr) (b : Bool), s.seq = .idle → 0 ≤ count →
    ((i = .enableWrite ∨ i = .disableWrite ∨ i = .read addr ∨ i = .readSequential addr count) →
      ∃ u, exec i s = .next u ∧ exec i { s with wen := b } = .next { u with wen := b }) ∧
    exec .isWriteEnabled { s with wen := b } = .next { s with wen := b, replies := s.replies ++ [.boolean b] }

/-- 20_memory.md section 8 (decision D10): while a request runs, another is refused by every meaning, and a step goes on
with the one in flight and takes none from the host. -/
def Obligations.RequestsAreAcceptedOnlyWhenIdle : Prop :=
  ∀ (s : State) (op : Op) (pos : Pos), s.seq = .busy op pos →
    (∀ i : Instr, i.wellFormed = true → exec i s = .refused .requestWhileBusy) ∧
    ∃ t, step s = .next t ∧ t.requests = s.requests

/-- 93_implementation_defined.md U6: a negative count is not an admitted request: it is refused by name. -/
def Obligations.NegativeCountIsRefused : Prop :=
  ∀ (s : State) (addr count : Int), count < 0 → exec (.readSequential addr count) s = .refused .negativeCount

/-! ## Whole-machine rules -/

/-- 60_exceptions.md section 6: write-enabled mode is entered by `enable_write` and left by `disable_write`, and in no
other way. That WEN changes after the last event of the envelope is 43_control_ops.md (R74, R75, R76) by decision D12;
that this is the same step as that event, `CS=0`, is the model's choice (log 30). -/
def Obligations.OnlyEnableAndDisableChangeTheMode : Prop :=
  ∀ s t : State, step s = .next t →
    (t.wen = true ∧ s.seq = .busy .enableWrite .csDeassert) ∨
    (t.wen = false ∧ s.seq = .busy .disableWrite .csDeassert) ∨
    (t.wen = s.wen ∧ s.seq ≠ .busy .enableWrite .csDeassert ∧ s.seq ≠ .busy .disableWrite .csDeassert)

/-- 70_reset_and_hazards.md section 1: no step changes model, organization, delay counts, limit or guard order. -/
def Obligations.ConfigurationIsImmutable : Prop := ∀ s t : State, step s = .next t → t.cfg = s.cfg

/-- 10_state.md section 6 (decision D11): while a request is in flight every step completes and produces exactly one
event; while idle, at most one, and only `CS=1`. -/
def Obligations.EveryBusyStepIsOneEvent : Prop :=
  (∀ (s : State) (op : Op) (pos : Pos), s.seq = .busy op pos →
    ∃ t e, step s = .next t ∧ t.trace = s.trace ++ [e]) ∧
  ∀ s t : State, s.seq = .idle → step s = .next t → t.trace = s.trace ∨ t.trace = s.trace ++ [.drive .cs true]

/-- 20_memory.md R31: DO is sampled once per shifted-in bit and once per poll and nowhere else; the event carries the
bit the outside answers. -/
def Obligations.DoIsSampledOnlyPerBitInAndPerPoll : Prop :=
  ∀ s t : State, step s = .next t →
    ((∃ op k, s.seq = .busy op (.wordIn k .sample)) ∨ (∃ op, s.seq = .busy op (.readyWait .sample)) →
      t.doIn = s.doIn.next ∧ t.trace = s.trace ++ [.smp s.doIn.bit]) ∧
    ((∀ op k, s.seq ≠ .busy op (.wordIn k .sample)) ∧ (∀ op, s.seq ≠ .busy op (.readyWait .sample)) →
      t.doIn = s.doIn ∧ ∀ b, t.trace ≠ s.trace ++ [.smp b])

/-- 43_control_ops.md section 1: a step answers the host at most once, and exactly when it leaves the engine idle after
taking or ending a request. -/
def Obligations.RepliesComeOnlyWithTheReturn : Prop :=
  ∀ s t : State, step s = .next t →
    t.replies = s.replies ∨ (t.seq = .idle ∧ ∃ r, t.replies = s.replies ++ [r])

/-- 60_exceptions.md section 1, 93_implementation_defined.md U6: a step never stops the machine but on a request that
is not admitted; and a host whose requests are all admitted, a free one among them, stays one. -/
def Obligations.StepStopsOnlyOnInadmissibleRequests : Prop :=
  (∀ s : State, (∀ i rest, s.requests.next = some (i, rest) → i.wellFormed = true) → ∃ t, step s = .next t) ∧
  ∀ s : State, Admitted s.requests → ∃ t, step s = .next t ∧ Admitted t.requests

/-- 43_control_ops.md section 1, 44_addressed_ops.md section 3: from an idle state in which the latch guard and the range
check are whatever they are, an admitted request returns exactly one reply in finitely many steps, provided the
outside answers a one in the ready-wait within any opted-in limit (decision D6). -/
def Obligations.EveryRequestReturnsWhereTheOutsideAnswersReady : Prop :=
  ∀ (s : State) (i : Instr) (k : Nat), s.seq = .idle → i.wellFormed = true → ReadyAfter s.doIn k →
    LimitAllows s.cfg k →
    ∃ u n t r, exec i s = .next u ∧ stepN n u = .next t ∧ t.seq = .idle ∧ t.replies = s.replies ++ [r] ∧
      t.requests = s.requests ∧ t.cfg = s.cfg

/-- HEADLINE. Every step keeps the invariant: CS high exactly while a request runs, SK and DI as the position says,
indexes and words within their widths, a guarded request only in write-enabled mode, an addressed one only in
range, the latches the levels last driven. The bound of the poll count by an opted-in limit is decision D6 (log 20). -/
def Obligations.EveryStepKeepsTheInvariant : Prop := ∀ s t : State, Inv s → step s = .next t → Inv t

/-- Every constructed engine, the reset state among them, meets the invariant. -/
def Obligations.ConstructedEnginesMeetTheInvariant : Prop :=
  (∀ c : Configuration, Inv (State.constructed c)) ∧ Inv State.reset

/-- 10_state.md section 4: no rule reads an output latch: with other levels in the latches a step is the same in
everything else. -/
def Obligations.OutputLatchesAreNeverRead : Prop :=
  ∀ (s t : State) (x y z : Latch), step s = .next t →
    ∃ t', step { s with cs := x, sk := y, di := z } = .next t' ∧
      { t' with cs := t.cs, sk := t.sk, di := t.di } = t

/-- 10_state.md section 2: no rule depends on the values of the delay counts: two engines that differ in them only go
through the same states in any run, but for the counts their delay events carry. -/
def Obligations.DelayCountsChangeNothingElse : Prop :=
  ∀ (n : Nat) (s t : State), SameButDelays s t → sameOutcome SameButDelays (stepN n s) (stepN n t)

/-- 10_state.md section 11: while idle, A, V, N, ACC, I and the envelope's own lists hold nothing a rule may read: two
idle engines that differ in them only can not be told apart by any run. -/
def Obligations.TransientLatchesHoldNothingBetweenRequests : Prop :=
  ∀ (n : Nat) (s t : State), s.seq = .idle → SameBetweenRequests s t →
    sameOutcome SameBetweenRequests (stepN n s) (stepN n t)

/-! ## Steps and words -/

/-- 60_exceptions.md section 8: an idle step runs the host's next request on the state without it: the first queued one,
else the first of the sequence that repeats, else the free one; and it does nothing where the host issues no more.
The three forms of the host are the model's (log 2). -/
def Obligations.IdleStepRunsTheNextRequest : Prop :=
  ∀ (s : State) (i : Instr) (rest : List Instr) (tail : HostTail) (n : Nat), s.seq = .idle →
    step { s with requests := ⟨i :: rest, tail, n⟩ } = exec i { s with requests := ⟨rest, tail, n⟩ } ∧
    step { s with requests := ⟨[], .repeats i rest, n⟩ } = exec i { s with requests := ⟨rest, .repeats i rest, n⟩ } ∧
    step { s with requests := ⟨[], .free, n⟩ } =
      exec (issuable (Config.hostCall n)) { s with requests := ⟨[], .free, n + 1⟩ } ∧
    step { s with requests := ⟨[], .ends, n⟩ } = .next { s with requests := ⟨[], .ends, n⟩ }

/-- The model's own placing of a request given as a word (log 16): the very next step runs the decoded request, on an
idle engine whose frames have the word's address width. -/
def Obligations.PlacedWordRunsNext : Prop :=
  ∀ (s : State) (nbits w : Nat) (d : Decoded) (rest : List Byte),
    decode (bytesOfWord (w % 2 ^ nbits)) = .ok (d, rest) →
    decodeTableWord nbits w = some d.instr ∧
    (∀ aw, d.aw = some aw → (configurationFor s.cfg d.aw).aw = aw) ∧
    ((∀ aw, d.aw = some aw → s.cfg.aw = aw) → configurationFor s.cfg d.aw = s.cfg) ∧
    step (s.withFetchWord nbits w) =
      exec d.instr { s with cfg := configurationFor s.cfg d.aw, seq := .idle }

/-- 30_encoding.md sections 1 and 2: words written out bit by bit from the frame formats decode to their requests. -/
def Obligations.WrittenOutFramesDecode : Prop :=
  decodeTableWord 16 0b100110000 = some .enableWrite ∧
  decodeTableWord 16 0b1000000000 = some .disableWrite ∧
  decodeTableWord 16 0b10010000000 = some .eraseAll ∧
  decodeTableWord 16 0b100010000000 = some (.writeAll 0) ∧
  decodeTableWord 16 0b1110000110001 = some (.erase 0x31) ∧
  decodeTableWord 16 0b10100000110001 = some (.write 0x31 0) ∧
  decodeTableWord 16 0b11000110001 = some (.read 0x31) ∧
  decodeTableWord 0 0 = some .isWriteEnabled

/-- HEADLINE. Decoding an encoded request gives it back, for every organization and model, every request, and every
operand value its fields hold; what follows it is left over. (The record around the frame is the model's, log 14.) -/
def Obligations.DecodingAnEncodedRequestGivesItBack : Prop :=
  ∀ (org : Organization) (model : Model) (i : Instr) (rest : List Byte), encodable org model i = true →
    ∃ aw, decode (encode org model i ++ rest) = .ok (⟨aw, i⟩, rest) ∧
      (i ≠ .isWriteEnabled → aw = some (addressWidth org model))

/-- The other direction: whatever four bytes decode to encodes to those bytes, on every chip of the frame's address
width, and its operands fit: no two records are one request. -/
def Obligations.EncodingADecodedRequestGivesTheBytesBack : Prop :=
  ∀ (bytes rest : List Byte) (d : Decoded) (org : Organization) (model : Model),
    decode bytes = .ok (d, rest) → (∀ aw, d.aw = some aw → addressWidth org model = aw) →
    encode org model d.instr ++ rest = bytes ∧ encodable org model d.instr = true

/-- 60_exceptions.md section 8 (decision D10): a run may have infinitely many requests. Where the host never stops, its
requests are admitted and the outside of DO answers ready, any number of them is accepted and returns, one reply each;
the host's three forms are the model's (log 2). -/
def Obligations.EndlessHostIsServedForEver : Prop :=
  ∀ s : State, s.seq = .idle → Admitted s.requests → Endless s.requests → AlwaysReady s.doIn →
    ∀ n, ∃ k t, stepN k s = .next t ∧ t.seq = .idle ∧ t.replies.length = s.replies.length + n ∧ t.cfg = s.cfg ∧
      Admitted t.requests ∧ Endless t.requests
end

