-- ==== Sys2Proof/Laws/State.lean ====
section
/-!
SUPPORT. One lemma per field per update of the state, so that no later proof unfolds a record update.
-/

namespace Sys2Proof.Machine

@[simp] theorem State.setI_cfg (s : State) (i : Nat) : (s.setI i).cfg = s.cfg := rfl
@[simp] theorem State.setI_wen (s : State) (i : Nat) : (s.setI i).wen = s.wen := rfl
@[simp] theorem State.setI_cs (s : State) (i : Nat) : (s.setI i).cs = s.cs := rfl
@[simp] theorem State.setI_sk (s : State) (i : Nat) : (s.setI i).sk = s.sk := rfl
@[simp] theorem State.setI_di (s : State) (i : Nat) : (s.setI i).di = s.di := rfl
@[simp] theorem State.setI_a (s : State) (i : Nat) : (s.setI i).a = s.a := rfl
@[simp] theorem State.setI_v (s : State) (i : Nat) : (s.setI i).v = s.v := rfl
@[simp] theorem State.setI_n (s : State) (i : Nat) : (s.setI i).n = s.n := rfl
@[simp] theorem State.setI_acc (s : State) (i : Nat) : (s.setI i).acc = s.acc := rfl
@[simp] theorem State.setI_i (s : State) (i : Nat) : (s.setI i).i = i := rfl
@[simp] theorem State.setI_seq (s : State) (i : Nat) : (s.setI i).seq = s.seq := rfl
@[simp] theorem State.setI_words (s : State) (i : Nat) : (s.setI i).words = s.words := rfl
@[simp] theorem State.setI_polls (s : State) (i : Nat) : (s.setI i).polls = s.polls := rfl
@[simp] theorem State.setI_requests (s : State) (i : Nat) : (s.setI i).requests = s.requests := rfl
@[simp] theorem State.setI_doIn (s : State) (i : Nat) : (s.setI i).doIn = s.doIn := rfl
@[simp] theorem State.setI_trace (s : State) (i : Nat) : (s.setI i).trace = s.trace := rfl
@[simp] theorem State.setI_replies (s : State) (i : Nat) : (s.setI i).replies = s.replies := rfl

@[simp] theorem State.setAcc_cfg (s : State) (acc : Word) : (s.setAcc acc).cfg = s.cfg := rfl
@[simp] theorem State.setAcc_wen (s : State) (acc : Word) : (s.setAcc acc).wen = s.wen := rfl
@[simp] theorem State.setAcc_cs (s : State) (acc : Word) : (s.setAcc acc).cs = s.cs := rfl
@[simp] theorem State.setAcc_sk (s : State) (acc : Word) : (s.setAcc acc).sk = s.sk := rfl
@[simp] theorem State.setAcc_di (s : State) (acc : Word) : (s.setAcc acc).di = s.di := rfl
@[simp] theorem State.setAcc_a (s : State) (acc : Word) : (s.setAcc acc).a = s.a := rfl
@[simp] theorem State.setAcc_v (s : State) (acc : Word) : (s.setAcc acc).v = s.v := rfl
@[simp] theorem State.setAcc_n (s : State) (acc : Word) : (s.setAcc acc).n = s.n := rfl
@[simp] theorem State.setAcc_acc (s : State) (acc : Word) : (s.setAcc acc).acc = acc := rfl
@[simp] theorem State.setAcc_i (s : State) (acc : Word) : (s.setAcc acc).i = s.i := rfl
@[simp] theorem State.setAcc_seq (s : State) (acc : Word) : (s.setAcc acc).seq = s.seq := rfl
@[simp] theorem State.setAcc_words (s : State) (acc : Word) : (s.setAcc acc).words = s.words := rfl
@[simp] theorem State.setAcc_polls (s : State) (acc : Word) : (s.setAcc acc).polls = s.polls := rfl
@[simp] theorem State.setAcc_requests (s : State) (acc : Word) : (s.setAcc acc).requests = s.requests := rfl
@[simp] theorem State.setAcc_doIn (s : State) (acc : Word) : (s.setAcc acc).doIn = s.doIn := rfl
@[simp] theorem State.setAcc_trace (s : State) (acc : Word) : (s.setAcc acc).trace = s.trace := rfl
@[simp] theorem State.setAcc_replies (s : State) (acc : Word) : (s.setAcc acc).replies = s.replies := rfl

@[simp] theorem State.setWords_cfg (s : State) (ws : List Word) : (s.setWords ws).cfg = s.cfg := rfl
@[simp] theorem State.setWords_wen (s : State) (ws : List Word) : (s.setWords ws).wen = s.wen := rfl
@[simp] theorem State.setWords_cs (s : State) (ws : List Word) : (s.setWords ws).cs = s.cs := rfl
@[simp] theorem State.setWords_sk (s : State) (ws : List Word) : (s.setWords ws).sk = s.sk := rfl
@[simp] theorem State.setWords_di (s : State) (ws : List Word) : (s.setWords ws).di = s.di := rfl
@[simp] theorem State.setWords_a (s : State) (ws : List Word) : (s.setWords ws).a = s.a := rfl
@[simp] theorem State.setWords_v (s : State) (ws : List Word) : (s.setWords ws).v = s.v := rfl
@[simp] theorem State.setWords_n (s : State) (ws : List Word) : (s.setWords ws).n = s.n := rfl
@[simp] theorem State.setWords_acc (s : State) (ws : List Word) : (s.setWords ws).acc = s.acc := rfl
@[simp] theorem State.setWords_i (s : State) (ws : List Word) : (s.setWords ws).i = s.i := rfl
@[simp] theorem State.setWords_seq (s : State) (ws : List Word) : (s.setWords ws).seq = s.seq := rfl
@[simp] theorem State.setWords_words (s : State) (ws : List Word) : (s.setWords ws).words = ws := rfl
@[simp] theorem State.setWords_polls (s : State) (ws : List Word) : (s.setWords ws).polls = s.polls := rfl
@[simp] theorem State.setWords_requests (s : State) (ws : List Word) : (s.setWords ws).requests = s.requests := rfl
@[simp] theorem State.setWords_doIn (s : State) (ws : List Word) : (s.setWords ws).doIn = s.doIn := rfl
@[simp] theorem State.setWords_trace (s : State) (ws : List Word) : (s.setWords ws).trace = s.trace := rfl
@[simp] theorem State.setWords_replies (s : State) (ws : List Word) : (s.setWords ws).replies = s.replies := rfl

@[simp] theorem State.setPolls_cfg (s : State) (k : Nat) : (s.setPolls k).cfg = s.cfg := rfl
@[simp] theorem State.setPolls_wen (s : State) (k : Nat) : (s.setPolls k).wen = s.wen := rfl
@[simp] theorem State.setPolls_cs (s : State) (k : Nat) : (s.setPolls k).cs = s.cs := rfl
@[simp] theorem State.setPolls_sk (s : State) (k : Nat) : (s.setPolls k).sk = s.sk := rfl
@[simp] theorem State.setPolls_di (s : State) (k : Nat) : (s.setPolls k).di = s.di := rfl
@[simp] theorem State.setPolls_a (s : State) (k : Nat) : (s.setPolls k).a = s.a := rfl
@[simp] theorem State.setPolls_v (s : State) (k : Nat) : (s.setPolls k).v = s.v := rfl
@[simp] theorem State.setPolls_n (s : State) (k : Nat) : (s.setPolls k).n = s.n := rfl
@[simp] theorem State.setPolls_acc (s : State) (k : Nat) : (s.setPolls k).acc = s.acc := rfl
@[simp] theorem State.setPolls_i (s : State) (k : Nat) : (s.setPolls k).i = s.i := rfl
@[simp] theorem State.setPolls_seq (s : State) (k : Nat) : (s.setPolls k).seq = s.seq := rfl
@[simp] theorem State.setPolls_words (s : State) (k : Nat) : (s.setPolls k).words = s.words := rfl
@[simp] theorem State.setPolls_polls (s : State) (k : Nat) : (s.setPolls k).polls = k := rfl
@[simp] theorem State.setPolls_requests (s : State) (k : Nat) : (s.setPolls k).requests = s.requests := rfl
@[simp] theorem State.setPolls_doIn (s : State) (k : Nat) : (s.setPolls k).doIn = s.doIn := rfl
@[simp] theorem State.setPolls_trace (s : State) (k : Nat) : (s.setPolls k).trace = s.trace := rfl
@[simp] theorem State.setPolls_replies (s : State) (k : Nat) : (s.setPolls k).replies = s.replies := rfl

@[simp] theorem State.setWen_cfg (s : State) (b : Bool) : (s.setWen b).cfg = s.cfg := rfl
@[simp] theorem State.setWen_wen (s : State) (b : Bool) : (s.setWen b).wen = b := rfl
@[simp] theorem State.setWen_cs (s : State) (b : Bool) : (s.setWen b).cs = s.cs := rfl
@[simp] theorem State.setWen_sk (s : State) (b : Bool) : (s.setWen b).sk = s.sk := rfl
@[simp] theorem State.setWen_di (s : State) (b : Bool) : (s.setWen b).di = s.di := rfl
@[simp] theorem State.setWen_a (s : State) (b : Bool) : (s.setWen b).a = s.a := rfl
@[simp] theorem State.setWen_v (s : State) (b : Bool) : (s.setWen b).v = s.v := rfl
@[simp] theorem State.setWen_n (s : State) (b : Bool) : (s.setWen b).n = s.n := rfl
@[simp] theorem State.setWen_acc (s : State) (b : Bool) : (s.setWen b).acc = s.acc := rfl
@[simp] theorem State.setWen_i (s : State) (b : Bool) : (s.setWen b).i = s.i := rfl
@[simp] theorem State.setWen_seq (s : State) (b : Bool) : (s.setWen b).seq = s.seq := rfl
@[simp] theorem State.setWen_words (s : State) (b : Bool) : (s.setWen b).words = s.words := rfl
@[simp] theorem State.setWen_polls (s : State) (b : Bool) : (s.setWen b).polls = s.polls := rfl
@[simp] theorem State.setWen_requests (s : State) (b : Bool) : (s.setWen b).requests = s.requests := rfl
@[simp] theorem State.setWen_doIn (s : State) (b : Bool) : (s.setWen b).doIn = s.doIn := rfl
@[simp] theorem State.setWen_trace (s : State) (b : Bool) : (s.setWen b).trace = s.trace := rfl
@[simp] theorem State.setWen_replies (s : State) (b : Bool) : (s.setWen b).replies = s.replies := rfl

@[simp] theorem State.loadA_cfg (s : State) (x : Int) : (s.loadA x).cfg = s.cfg := rfl
@[simp] theorem State.loadA_wen (s : State) (x : Int) : (s.loadA x).wen = s.wen := rfl
@[simp] theorem State.loadA_cs (s : State) (x : Int) : (s.loadA x).cs = s.cs := rfl
@[simp] theorem State.loadA_sk (s : State) (x : Int) : (s.loadA x).sk = s.sk := rfl
@[simp] theorem State.loadA_di (s : State) (x : Int) : (s.loadA x).di = s.di := rfl
@[simp] theorem State.loadA_a (s : State) (x : Int) : (s.loadA x).a = x := rfl
@[simp] theorem State.loadA_v (s : State) (x : Int) : (s.loadA x).v = s.v := rfl
@[simp] theorem State.loadA_n (s : State) (x : Int) : (s.loadA x).n = s.n := rfl
@[simp] theorem State.loadA_acc (s : State) (x : Int) : (s.loadA x).acc = s.acc := rfl
@[simp] theorem State.loadA_i (s : State) (x : Int) : (s.loadA x).i = s.i := rfl
@[simp] theorem State.loadA_seq (s : State) (x : Int) : (s.loadA x).seq = s.seq := rfl
@[simp] theorem State.loadA_words (s : State) (x : Int) : (s.loadA x).words = s.words := rfl
@[simp] theorem State.loadA_polls (s : State) (x : Int) : (s.loadA x).polls = s.polls := rfl
@[simp] theorem State.loadA_requests (s : State) (x : Int) : (s.loadA x).requests = s.requests := rfl
@[simp] theorem State.loadA_doIn (s : State) (x : Int) : (s.loadA x).doIn = s.doIn := rfl
@[simp] theorem State.loadA_trace (s : State) (x : Int) : (s.loadA x).trace = s.trace := rfl
@[simp] theorem State.loadA_replies (s : State) (x : Int) : (s.loadA x).replies = s.replies := rfl

@[simp] theorem State.loadV_cfg (s : State) (x : Int) : (s.loadV x).cfg = s.cfg := rfl
@[simp] theorem State.loadV_wen (s : State) (x : Int) : (s.loadV x).wen = s.wen := rfl
@[simp] theorem State.loadV_cs (s : State) (x : Int) : (s.loadV x).cs = s.cs := rfl
@[simp] theorem State.loadV_sk (s : State) (x : Int) : (s.loadV x).sk = s.sk := rfl
@[simp] theorem State.loadV_di (s : State) (x : Int) : (s.loadV x).di = s.di := rfl
@[simp] theorem State.loadV_a (s : State) (x : Int) : (s.loadV x).a = s.a := rfl
@[simp] theorem State.loadV_v (s : State) (x : Int) : (s.loadV x).v = x := rfl
@[simp] theorem State.loadV_n (s : State) (x : Int) : (s.loadV x).n = s.n := rfl
@[simp] theorem State.loadV_acc (s : State) (x : Int) : (s.loadV x).acc = s.acc := rfl
@[simp] theorem State.loadV_i (s : State) (x : Int) : (s.loadV x).i = s.i := rfl
@[simp] theorem State.loadV_seq (s : State) (x : Int) : (s.loadV x).seq = s.seq := rfl
@[simp] theorem State.loadV_words (s : State) (x : Int) : (s.loadV x).words = s.words := rfl
@[simp] theorem State.loadV_polls (s : State) (x : Int) : (s.loadV x).polls = s.polls := rfl
@[simp] theorem State.loadV_requests (s : State) (x : Int) : (s.loadV x).requests = s.requests := rfl
@[simp] theorem State.loadV_doIn (s : State) (x : Int) : (s.loadV x).doIn = s.doIn := rfl
@[simp] theorem State.loadV_trace (s : State) (x : Int) : (s.loadV x).trace = s.trace := rfl
@[simp] theorem State.loadV_replies (s : State) (x : Int) : (s.loadV x).replies = s.replies := rfl

@[simp] theorem State.loadN_cfg (s : State) (k : Nat) : (s.loadN k).cfg = s.cfg := rfl
@[simp] theorem State.loadN_wen (s : State) (k : Nat) : (s.loadN k).wen = s.wen := rfl
@[simp] theorem State.loadN_cs (s : State) (k : Nat) : (s.loadN k).cs = s.cs := rfl
@[simp] theorem State.loadN_sk (s : State) (k : Nat) : (s.loadN k).sk = s.sk := rfl
@[simp] theorem State.loadN_di (s : State) (k : Nat) : (s.loadN k).di = s.di := rfl
@[simp] theorem State.loadN_a (s : State) (k : Nat) : (s.loadN k).a = s.a := rfl
@[simp] theorem State.loadN_v (s : State) (k : Nat) : (s.loadN k).v = s.v := rfl
@[simp] theorem State.loadN_n (s : State) (k : Nat) : (s.loadN k).n = k := rfl
@[simp] theorem State.loadN_acc (s : State) (k : Nat) : (s.loadN k).acc = s.acc := rfl
@[simp] theorem State.loadN_i (s : State) (k : Nat) : (s.loadN k).i = s.i := rfl
@[simp] theorem State.loadN_seq (s : State) (k : Nat) : (s.loadN k).seq = s.seq := rfl
@[simp] theorem State.loadN_words (s : State) (k : Nat) : (s.loadN k).words = s.words := rfl
@[simp] theorem State.loadN_polls (s : State) (k : Nat) : (s.loadN k).polls = s.polls := rfl
@[simp] theorem State.loadN_requests (s : State) (k : Nat) : (s.loadN k).requests = s.requests := rfl
@[simp] theorem State.loadN_doIn (s : State) (k : Nat) : (s.loadN k).doIn = s.doIn := rfl
@[simp] theorem State.loadN_trace (s : State) (k : Nat) : (s.loadN k).trace = s.trace := rfl
@[simp] theorem State.loadN_replies (s : State) (k : Nat) : (s.loadN k).replies = s.replies := rfl

@[simp] theorem State.delay_cfg (s : State) (k : Budget) : (s.delay k).cfg = s.cfg := rfl
@[simp] theorem State.delay_wen (s : State) (k : Budget) : (s.delay k).wen = s.wen := rfl
@[simp] theorem State.delay_cs (s : State) (k : Budget) : (s.delay k).cs = s.cs := rfl
@[simp] theorem State.delay_sk (s : State) (k : Budget) : (s.delay k).sk = s.sk := rfl
@[simp] theorem State.delay_di (s : State) (k : Budget) : (s.delay k).di = s.di := rfl
@[simp] theorem State.delay_a (s : State) (k : Budget) : (s.delay k).a = s.a := rfl
@[simp] theorem State.delay_v (s : State) (k : Budget) : (s.delay k).v = s.v := rfl
@[simp] theorem State.delay_n (s : State) (k : Budget) : (s.delay k).n = s.n := rfl
@[simp] theorem State.delay_acc (s : State) (k : Budget) : (s.delay k).acc = s.acc := rfl
@[simp] theorem State.delay_i (s : State) (k : Budget) : (s.delay k).i = s.i := rfl
@[simp] theorem State.delay_seq (s : State) (k : Budget) : (s.delay k).seq = s.seq := rfl
@[simp] theorem State.delay_words (s : State) (k : Budget) : (s.delay k).words = s.words := rfl
@[simp] theorem State.delay_polls (s : State) (k : Budget) : (s.delay k).polls = s.polls := rfl
@[simp] theorem State.delay_requests (s : State) (k : Budget) : (s.delay k).requests = s.requests := rfl
@[simp] theorem State.delay_doIn (s : State) (k : Budget) : (s.delay k).doIn = s.doIn := rfl
@[simp] theorem State.delay_trace (s : State) (k : Budget) : (s.delay k).trace = s.trace ++ [.dly k (s.cfg.count k)] := rfl
@[simp] theorem State.delay_replies (s : State) (k : Budget) : (s.delay k).replies = s.replies := rfl

@[simp] theorem State.sample_cfg (s : State) : (s.sample).cfg = s.cfg := rfl
@[simp] theorem State.sample_wen (s : State) : (s.sample).wen = s.wen := rfl
@[simp] theorem State.sample_cs (s : State) : (s.sample).cs = s.cs := rfl
@[simp] theorem State.sample_sk (s : State) : (s.sample).sk = s.sk := rfl
@[simp] theorem State.sample_di (s : State) : (s.sample).di = s.di := rfl
@[simp] theorem State.sample_a (s : State) : (s.sample).a = s.a := rfl
@[simp] theorem State.sample_v (s : State) : (s.sample).v = s.v := rfl
@[simp] theorem State.sample_n (s : State) : (s.sample).n = s.n := rfl
@[simp] theorem State.sample_acc (s : State) : (s.sample).acc = s.acc := rfl
@[simp] theorem State.sample_i (s : State) : (s.sample).i = s.i := rfl
@[simp] theorem State.sample_seq (s : State) : (s.sample).seq = s.seq := rfl
@[simp] theorem State.sample_words (s : State) : (s.sample).words = s.words := rfl
@[simp] theorem State.sample_polls (s : State) : (s.sample).polls = s.polls := rfl
@[simp] theorem State.sample_requests (s : State) : (s.sample).requests = s.requests := rfl
@[simp] theorem State.sample_doIn (s : State) : (s.sample).doIn = s.doIn.next := rfl
@[simp] theorem State.sample_trace (s : State) : (s.sample).trace = s.trace ++ [.smp s.doIn.bit] := rfl
@[simp] theorem State.sample_replies (s : State) : (s.sample).replies = s.replies := rfl

@[simp] theorem State.goto_cfg (s : State) (op : Op) (pos : Pos) : (s.goto op pos).cfg = s.cfg := rfl
@[simp] theorem State.goto_wen (s : State) (op : Op) (pos : Pos) : (s.goto op pos).wen = s.wen := rfl
@[simp] theorem State.goto_cs (s : State) (op : Op) (pos : Pos) : (s.goto op pos).cs = s.cs := rfl
@[simp] theorem State.goto_sk (s : State) (op : Op) (pos : Pos) : (s.goto op pos).sk = s.sk := rfl
@[simp] theorem State.goto_di (s : State) (op : Op) (pos : Pos) : (s.goto op pos).di = s.di := rfl
@[simp] theorem State.goto_a (s : State) (op : Op) (pos : Pos) : (s.goto op pos).a = s.a := rfl
@[simp] theorem State.goto_v (s : State) (op : Op) (pos : Pos) : (s.goto op pos).v = s.v := rfl
@[simp] theorem State.goto_n (s : State) (op : Op) (pos : Pos) : (s.goto op pos).n = s.n := rfl
@[simp] theorem State.goto_acc (s : State) (op : Op) (pos : Pos) : (s.goto op pos).acc = s.acc := rfl
@[simp] theorem State.goto_i (s : State) (op : Op) (pos : Pos) : (s.goto op pos).i = s.i := rfl
@[simp] theorem State.goto_seq (s : State) (op : Op) (pos : Pos) : (s.goto op pos).seq = .busy op pos := rfl
@[simp] theorem State.goto_words (s : State) (op : Op) (pos : Pos) : (s.goto op pos).words = s.words := rfl
@[simp] theorem State.goto_polls (s : State) (op : Op) (pos : Pos) : (s.goto op pos).polls = s.polls := rfl
@[simp] theorem State.goto_requests (s : State) (op : Op) (pos : Pos) : (s.goto op pos).requests = s.requests := rfl
@[simp] theorem State.goto_doIn (s : State) (op : Op) (pos : Pos) : (s.goto op pos).doIn = s.doIn := rfl
@[simp] theorem State.goto_trace (s : State) (op : Op) (pos : Pos) : (s.goto op pos).trace = s.trace := rfl
@[simp] theorem State.goto_replies (s : State) (op : Op) (pos : Pos) : (s.goto op pos).replies = s.replies := rfl

@[simp] theorem State.finish_cfg (s : State) (r : Reply) : (s.finish r).cfg = s.cfg := rfl
@[simp] theorem State.finish_wen (s : State) (r : Reply) : (s.finish r).wen = s.wen := rfl
@[simp] theorem State.finish_cs (s : State) (r : Reply) : (s.finish r).cs = s.cs := rfl
@[simp] theorem State.finish_sk (s : State) (r : Reply) : (s.finish r).sk = s.sk := rfl
@[simp] theorem State.finish_di (s : State) (r : Reply) : (s.finish r).di = s.di := rfl
@[simp] theorem State.finish_a (s : State) (r : Reply) : (s.finish r).a = s.a := rfl
@[simp] theorem State.finish_v (s : State) (r : Reply) : (s.finish r).v = s.v := rfl
@[simp] theorem State.finish_n (s : State) (r : Reply) : (s.finish r).n = s.n := rfl
@[simp] theorem State.finish_acc (s : State) (r : Reply) : (s.finish r).acc = s.acc := rfl
@[simp] theorem State.finish_i (s : State) (r : Reply) : (s.finish r).i = s.i := rfl
@[simp] theorem State.finish_seq (s : State) (r : Reply) : (s.finish r).seq = .idle := rfl
@[simp] theorem State.finish_words (s : State) (r : Reply) : (s.finish r).words = s.words := rfl
@[simp] theorem State.finish_polls (s : State) (r : Reply) : (s.finish r).polls = s.polls := rfl
@[simp] theorem State.finish_requests (s : State) (r : Reply) : (s.finish r).requests = s.requests := rfl
@[simp] theorem State.finish_doIn (s : State) (r : Reply) : (s.finish r).doIn = s.doIn := rfl
@[simp] theorem State.finish_trace (s : State) (r : Reply) : (s.finish r).trace = s.trace := rfl
@[simp] theorem State.finish_replies (s : State) (r : Reply) : (s.finish r).replies = s.replies ++ [r] := rfl

@[simp] theorem State.raise_cfg (s : State) (e : EngineError) : (s.raise e).cfg = s.cfg := rfl
@[simp] theorem State.raise_wen (s : State) (e : EngineError) : (s.raise e).wen = s.wen := rfl
@[simp] theorem State.raise_cs (s : State) (e : EngineError) : (s.raise e).cs = s.cs := rfl
@[simp] theorem State.raise_sk (s : State) (e : EngineError) : (s.raise e).sk = s.sk := rfl
@[simp] theorem State.raise_di (s : State) (e : EngineError) : (s.raise e).di = s.di := rfl
@[simp] theorem State.raise_a (s : State) (e : EngineError) : (s.raise e).a = s.a := rfl
@[simp] theorem State.raise_v (s : State) (e : EngineError) : (s.raise e).v = s.v := rfl
@[simp] theorem State.raise_n (s : State) (e : EngineError) : (s.raise e).n = s.n := rfl
@[simp] theorem State.raise_acc (s : State) (e : EngineError) : (s.raise e).acc = s.acc := rfl
@[simp] theorem State.raise_i (s : State) (e : EngineError) : (s.raise e).i = s.i := rfl
@[simp] theorem State.raise_seq (s : State) (e : EngineError) : (s.raise e).seq = .idle := rfl
@[simp] theorem State.raise_words (s : State) (e : EngineError) : (s.raise e).words = s.words := rfl
@[simp] theorem State.raise_polls (s : State) (e : EngineError) : (s.raise e).polls = s.polls := rfl
@[simp] theorem State.raise_requests (s : State) (e : EngineError) : (s.raise e).requests = s.requests := rfl
@[simp] theorem State.raise_doIn (s : State) (e : EngineError) : (s.raise e).doIn = s.doIn := rfl
@[simp] theorem State.raise_trace (s : State) (e : EngineError) : (s.raise e).trace = s.trace := rfl
@[simp] theorem State.raise_replies (s : State) (e : EngineError) : (s.raise e).replies = s.replies ++ [.error e] := rfl

@[simp] theorem State.driveCs_cs (s : State) (b : Bit) : (s.drive .cs b).cs = Latch.ofBit b := rfl
@[simp] theorem State.driveCs_sk (s : State) (b : Bit) : (s.drive .cs b).sk = s.sk := rfl
@[simp] theorem State.driveCs_di (s : State) (b : Bit) : (s.drive .cs b).di = s.di := rfl
@[simp] theorem State.driveSk_cs (s : State) (b : Bit) : (s.drive .sk b).cs = s.cs := rfl
@[simp] theorem State.driveSk_sk (s : State) (b : Bit) : (s.drive .sk b).sk = Latch.ofBit b := rfl
@[simp] theorem State.driveSk_di (s : State) (b : Bit) : (s.drive .sk b).di = s.di := rfl
@[simp] theorem State.driveDi_cs (s : State) (b : Bit) : (s.drive .di b).cs = s.cs := rfl
@[simp] theorem State.driveDi_sk (s : State) (b : Bit) : (s.drive .di b).sk = s.sk := rfl
@[simp] theorem State.driveDi_di (s : State) (b : Bit) : (s.drive .di b).di = Latch.ofBit b := rfl
@[simp] theorem State.drive_cfg (s : State) (l : Line) (b : Bit) : (s.drive l b).cfg = s.cfg := by cases l <;> rfl
@[simp] theorem State.drive_wen (s : State) (l : Line) (b : Bit) : (s.drive l b).wen = s.wen := by cases l <;> rfl
@[simp] theorem State.drive_a (s : State) (l : Line) (b : Bit) : (s.drive l b).a = s.a := by cases l <;> rfl
@[simp] theorem State.drive_v (s : State) (l : Line) (b : Bit) : (s.drive l b).v = s.v := by cases l <;> rfl
@[simp] theorem State.drive_n (s : State) (l : Line) (b : Bit) : (s.drive l b).n = s.n := by cases l <;> rfl
@[simp] theorem State.drive_acc (s : State) (l : Line) (b : Bit) : (s.drive l b).acc = s.acc := by cases l <;> rfl
@[simp] theorem State.drive_i (s : State) (l : Line) (b : Bit) : (s.drive l b).i = s.i := by cases l <;> rfl
@[simp] theorem State.drive_seq (s : State) (l : Line) (b : Bit) : (s.drive l b).seq = s.seq := by cases l <;> rfl
@[simp] theorem State.drive_words (s : State) (l : Line) (b : Bit) : (s.drive l b).words = s.words := by cases l <;> rfl
@[simp] theorem State.drive_polls (s : State) (l : Line) (b : Bit) : (s.drive l b).polls = s.polls := by cases l <;> rfl
@[simp] theorem State.drive_requests (s : State) (l : Line) (b : Bit) : (s.drive l b).requests = s.requests := by cases l <;> rfl
@[simp] theorem State.drive_doIn (s : State) (l : Line) (b : Bit) : (s.drive l b).doIn = s.doIn := by cases l <;> rfl
@[simp] theorem State.drive_trace (s : State) (l : Line) (b : Bit) : (s.drive l b).trace = s.trace ++ [.drive l b] := by cases l <;> rfl
@[simp] theorem State.drive_replies (s : State) (l : Line) (b : Bit) : (s.drive l b).replies = s.replies := by cases l <;> rfl

end Sys2Proof.Machine
end

