-- ==== Sys2Proof/Laws/Operands.lean ====
section
/-!
SUPPORT. Laws of the operand latches and the envelope's arguments: what they depend on, and that no operation of the
transport changes them.
-/

namespace Sys2Proof

/-- A word width is 8 or 16 (40_geometry.md R55). -/
theorem Configuration.w_pos (c : Configuration) : 0 < c.w := by
  unfold Configuration.w; cases c.org <;> decide

theorem Configuration.w_le (c : Configuration) : c.w ≤ 16 := by
  unfold Configuration.w; cases c.org <;> decide

end Sys2Proof

namespace Sys2Proof.Machine

/-- The envelope's arguments depend on the configuration and the operand latches only. -/
theorem State.envelope_congr {s t : State} (op : Op) (hc : s.cfg = t.cfg) (ha : s.a = t.a) (hv : s.v = t.v)
    (hn : s.n = t.n) : s.envelope op = t.envelope op := by
  cases op <;>
    simp [State.envelope, enableWriteEnvelope, disableWriteEnvelope, eraseAllEnvelope, writeAllEnvelope, eraseEnvelope,
      writeEnvelope, readEnvelope, readSequentialEnvelope, hc, ha, hv, hn]

@[simp] theorem State.envelope_setI (s : State) (i : Nat) (op : Op) : (s.setI i).envelope op = s.envelope op :=
  State.envelope_congr op rfl rfl rfl rfl

@[simp] theorem State.envelope_setAcc (s : State) (x : Word) (op : Op) : (s.setAcc x).envelope op = s.envelope op :=
  State.envelope_congr op rfl rfl rfl rfl

@[simp] theorem State.envelope_setWords (s : State) (ws : List Word) (op : Op) :
    (s.setWords ws).envelope op = s.envelope op := State.envelope_congr op rfl rfl rfl rfl

@[simp] theorem State.envelope_setPolls (s : State) (k : Nat) (op : Op) :
    (s.setPolls k).envelope op = s.envelope op := State.envelope_congr op rfl rfl rfl rfl

@[simp] theorem State.envelope_setWen (s : State) (b : Bool) (op : Op) : (s.setWen b).envelope op = s.envelope op :=
  State.envelope_congr op rfl rfl rfl rfl

@[simp] theorem State.envelope_drive (s : State) (l : Line) (b : Bit) (op : Op) :
    (s.drive l b).envelope op = s.envelope op := by cases l <;> exact State.envelope_congr op rfl rfl rfl rfl

@[simp] theorem State.envelope_delay (s : State) (k : Budget) (op : Op) : (s.delay k).envelope op = s.envelope op :=
  State.envelope_congr op rfl rfl rfl rfl

@[simp] theorem State.envelope_sample (s : State) (op : Op) : s.sample.envelope op = s.envelope op :=
  State.envelope_congr op rfl rfl rfl rfl

@[simp] theorem State.envelope_goto (s : State) (op' : Op) (pos : Pos) (op : Op) :
    (s.goto op' pos).envelope op = s.envelope op := State.envelope_congr op rfl rfl rfl rfl

@[simp] theorem State.envelope_finish (s : State) (r : Reply) (op : Op) : (s.finish r).envelope op = s.envelope op :=
  State.envelope_congr op rfl rfl rfl rfl

@[simp] theorem State.accumulate_cfg (s : State) (b : Bit) : (s.accumulate b).cfg = s.cfg := rfl
@[simp] theorem State.accumulate_wen (s : State) (b : Bit) : (s.accumulate b).wen = s.wen := rfl
@[simp] theorem State.accumulate_cs (s : State) (b : Bit) : (s.accumulate b).cs = s.cs := rfl
@[simp] theorem State.accumulate_sk (s : State) (b : Bit) : (s.accumulate b).sk = s.sk := rfl
@[simp] theorem State.accumulate_di (s : State) (b : Bit) : (s.accumulate b).di = s.di := rfl
@[simp] theorem State.accumulate_a (s : State) (b : Bit) : (s.accumulate b).a = s.a := rfl
@[simp] theorem State.accumulate_v (s : State) (b : Bit) : (s.accumulate b).v = s.v := rfl
@[simp] theorem State.accumulate_n (s : State) (b : Bit) : (s.accumulate b).n = s.n := rfl
@[simp] theorem State.accumulate_acc (s : State) (b : Bit) : (s.accumulate b).acc = s.acc ||| (Word.ofBit b <<< s.i) := rfl
@[simp] theorem State.accumulate_i (s : State) (b : Bit) : (s.accumulate b).i = s.i := rfl
@[simp] theorem State.accumulate_seq (s : State) (b : Bit) : (s.accumulate b).seq = s.seq := rfl
@[simp] theorem State.accumulate_words (s : State) (b : Bit) : (s.accumulate b).words = s.words := rfl
@[simp] theorem State.accumulate_polls (s : State) (b : Bit) : (s.accumulate b).polls = s.polls := rfl
@[simp] theorem State.accumulate_requests (s : State) (b : Bit) : (s.accumulate b).requests = s.requests := rfl
@[simp] theorem State.accumulate_doIn (s : State) (b : Bit) : (s.accumulate b).doIn = s.doIn := rfl
@[simp] theorem State.accumulate_trace (s : State) (b : Bit) : (s.accumulate b).trace = s.trace := rfl
@[simp] theorem State.accumulate_replies (s : State) (b : Bit) : (s.accumulate b).replies = s.replies := rfl

@[simp] theorem State.envelope_accumulate (s : State) (b : Bit) (op : Op) :
    (s.accumulate b).envelope op = s.envelope op := State.envelope_congr op rfl rfl rfl rfl

/-- Every command is `AW + 2` bits long (41_encoder.md R59, R60). -/
@[simp] theorem State.envelope_length (s : State) (op : Op) : (s.envelope op).cmd.length = s.cfg.aw + 2 := by
  cases op <;> rfl

/-- A payload is W bits long (41_encoder.md R61). -/
theorem State.envelope_payload_length {s : State} {op : Op} {e : Encoded} (h : (s.envelope op).payload = some e) :
    e.length = s.cfg.w := by
  cases op <;>
    simp [State.envelope, enableWriteEnvelope, disableWriteEnvelope, eraseAllEnvelope, writeAllEnvelope, eraseEnvelope,
      writeEnvelope, readEnvelope, readSequentialEnvelope] at h <;> simp [← h, encPayload]

/-- No envelope both waits and shifts words in (42_transport.md R70). -/
theorem State.envelope_wait_inWords {s : State} {op : Op} (h : (s.envelope op).wait = true) :
    (s.envelope op).inWords = 0 := by
  cases op <;>
    simp [State.envelope, enableWriteEnvelope, disableWriteEnvelope, readEnvelope, readSequentialEnvelope] at h <;> rfl

end Sys2Proof.Machine
end

