-- ==== Sys2Proof/Laws/Ops.lean ====
section
/-!
SUPPORT. Laws of the outside of DO, of the latches, and of the reference traces.
-/

namespace Sys2Proof.Machine

@[simp] theorem DoInput.after_zero (d : DoInput) : d.after 0 = d := rfl

@[simp] theorem DoInput.after_succ (d : DoInput) (k : Nat) : d.after (k + 1) = d.next.after k := rfl

@[simp] theorem DoInput.nth_zero (d : DoInput) : d.nth 0 = d.bit := rfl

@[simp] theorem DoInput.nth_next (d : DoInput) (k : Nat) : d.next.nth k = d.nth (k + 1) := rfl

theorem DoInput.after_add (d : DoInput) (j k : Nat) : d.after (j + k) = (d.after j).after k := by
  induction j generalizing d with
  | zero => simp
  | succ j ih => rw [Nat.succ_add, DoInput.after_succ, DoInput.after_succ, ih]

theorem DoInput.nth_after (d : DoInput) (j k : Nat) : (d.after j).nth k = d.nth (j + k) := by
  simp only [DoInput.nth, DoInput.after_add]

theorem DoInput.after_next (d : DoInput) (k : Nat) : (d.after k).next = d.after (k + 1) := by
  rw [DoInput.after_add]; rfl

/-- A host issues admitted requests unchanged (decision D9). -/
theorem issuable_eq {i : Instr} (h : i.wellFormed = true) : issuable i = i := by
  cases i with
  | readSequential addr count =>
    simp only [Instr.wellFormed, decide_eq_true_eq] at h
    simp [issuable, h]
  | _ => rfl

@[simp] theorem issuable_wellFormed (i : Instr) : (issuable i).wellFormed = true := by
  cases i <;> simp [issuable, Instr.wellFormed]

@[simp] theorem HostCalls.next_queue (i : Instr) (rest : List Instr) (t : HostTail) (n : Nat) :
    HostCalls.next ⟨i :: rest, t, n⟩ = some (i, ⟨rest, t, n⟩) := rfl

@[simp] theorem HostCalls.next_ends (n : Nat) : HostCalls.next ⟨[], .ends, n⟩ = none := rfl

@[simp] theorem HostCalls.next_repeats (i : Instr) (rest : List Instr) (n : Nat) :
    HostCalls.next ⟨[], .repeats i rest, n⟩ = some (i, ⟨rest, .repeats i rest, n⟩) := rfl

@[simp] theorem HostCalls.next_free (n : Nat) :
    HostCalls.next ⟨[], .free, n⟩ = some (issuable (Config.hostCall n), ⟨[], .free, n + 1⟩) := rfl

@[simp] theorem HostCalls.next_push (h : HostCalls) (i : Instr) : (h.push i).next = some (i, h) := rfl

/-- Issuing a request never changes what the host does after its queue. -/
theorem HostCalls.next_tail {h k : HostCalls} {i : Instr} (hn : h.next = some (i, k)) : k.tail = h.tail := by
  unfold HostCalls.next at hn
  (repeat' split at hn) <;> cases hn <;> rfl

@[simp] theorem Latch.ofBit_true : Latch.ofBit true = .high := rfl

@[simp] theorem Latch.ofBit_false : Latch.ofBit false = .low := rfl

@[simp] theorem Latch.ofBit_ne_noValue (b : Bit) : Latch.ofBit b ≠ .noValue := by cases b <;> decide

/-- A trace in two parts leaves a line where the second part leaves it from where the first did. -/
theorem lastDriven_append (l : Line) (x : Latch) (p q : List Event) :
    lastDriven l x (p ++ q) = lastDriven l (lastDriven l x p) q := by
  induction p generalizing x with
  | nil => rfl
  | cons e p ih => cases e <;> simp [lastDriven, ih]

@[simp] theorem outCell_length (c : Configuration) (b : Bit) : (outCell c b).length = 6 := rfl

@[simp] theorem inCell_length (c : Configuration) (b : Bit) : (inCell c b).length = 5 := rfl

/-- `SHIFT_OUT` produces exactly 6 events per bit (42_transport.md R64). -/
@[simp] theorem shiftOutTrace_length (c : Configuration) (value m : Nat) :
    (shiftOutTrace c value m).length = 6 * m := by
  induction m with
  | zero => rfl
  | succ m ih => simp [shiftOutTrace, ih]; omega

/-- `SHIFT_IN` produces exactly 5 events per bit (42_transport.md R65). -/
@[simp] theorem shiftInTrace_length (c : Configuration) (d : DoInput) (m : Nat) :
    (shiftInTrace c d m).length = 5 * m := by
  induction m generalizing d with
  | zero => rfl
  | succ m ih => simp [shiftInTrace, ih]; omega

@[simp] theorem wordsTrace_length (c : Configuration) (d : DoInput) (k : Nat) :
    (wordsTrace c d k).length = 5 * (c.w * k) := by
  induction k generalizing d with
  | zero => rfl
  | succ k ih => simp [wordsTrace, ih]; ring

@[simp] theorem failedPolls_length (c : Configuration) (k : Nat) : (failedPolls c k).length = 2 * k := by
  induction k with
  | zero => rfl
  | succ k ih => simp [failedPolls, ih]; omega

/-- The envelope's event count is the length of its trace (42_transport.md R70). -/
theorem envelopeTrace_length (c : Configuration) (e : EnvelopeArgs) (d : DoInput) (k : Nat) :
    (envelopeTrace c e d k).length = envelopeEvents c e k := by
  cases hp : e.payload <;> cases hw : e.wait <;>
    simp [envelopeTrace, sendTrace, payloadTrace, readyTrace, envelopeEvents, hp, hw] <;> omega

end Sys2Proof.Machine
end

