-- ==== Sys2Proof/Laws/Transport.lean ====
section
/-!
SUPPORT. What runs of the transport do, said once: a shift-out, a shift-in, a ready-wait, each as one equation about
`stepN`.
-/

namespace Sys2Proof.Machine

theorem step_busy {s : State} {op : Op} {pos : Pos} (h : s.seq = .busy op pos) :
    step s = .next (s.advance op pos) := by simp [step, h]

theorem stepN_busy {s : State} {op : Op} {pos : Pos} (h : s.seq = .busy op pos) (k : Nat) :
    stepN (k + 1) s = stepN k (s.advance op pos) := by simp [stepN, step_busy h]

/-- A run in two parts. -/
theorem stepN_trans {j : Nat} {s t : State} (h : stepN j s = .next t) (k : Nat) : stepN (j + k) s = stepN k t := by
  induction j generalizing s with
  | zero => simp only [stepN, Host.Outcome.next.injEq] at h; rw [Nat.zero_add, h]
  | succ j ih =>
    rw [Nat.succ_add]
    simp only [stepN] at h ⊢
    cases hs : step s with
    | next u => rw [hs] at h; exact ih h
    | fault e => rw [hs] at h; cases h
    | refused e => rw [hs] at h; cases h

/-- The positions of a field's shift-out are stepped by `shiftOutTick`. -/
theorem State.advance_outField (s : State) (op : Op) (f : OutField) (p : OutPhase) :
    s.advance op (f.pos p) = s.shiftOutTick op f.pos (f.value (s.envelope op)) (f.follow op) p := by
  cases f <;> rfl

/-- The state in which a shift-out of `value` from index `s.i` down has produced its last event. -/
def State.shiftedOut (s : State) (op : Op) (f : OutField) (value : Nat) : State :=
  { s with
    i := 0, sk := .low, di := Latch.ofBit (value.testBit 0), seq := .busy op (f.pos .dly3),
    trace := s.trace ++ shiftOutTrace s.cfg value (s.i + 1) }

/-- The first five steps of a bit; the sixth is left. -/
theorem stepN_outCell {s : State} {op : Op} {f : OutField} (h : s.seq = .busy op (f.pos .di)) (k : Nat) :
    stepN (5 + k) s =
      stepN k (((((s.drive .di ((f.value (s.envelope op)).testBit s.i)).delay .w).drive .sk true).delay .w).drive
        .sk false |>.goto op (f.pos .dly3)) := by
  rw [show 5 + k = k + 1 + 1 + 1 + 1 + 1 by omega, stepN_busy h, State.advance_outField]
  simp only [State.shiftOutTick]
  iterate 4
    rw [stepN_busy (State.goto_seq _ _ _), State.advance_outField]
    simp only [State.shiftOutTick]
  congr 1

/-- The six steps of one bit that is not the last. -/
theorem stepN_outCell_succ {s : State} {op : Op} {f : OutField} {m : Nat} (h : s.seq = .busy op (f.pos .di))
    (hi : s.i = m + 1) (k : Nat) :
    stepN (6 + k) s =
      stepN k { s with
        i := m, sk := .low, di := Latch.ofBit ((f.value (s.envelope op)).testBit (m + 1)),
        trace := s.trace ++ outCell s.cfg ((f.value (s.envelope op)).testBit (m + 1)) } := by
  rw [show 6 + k = 5 + (k + 1) by omega, stepN_outCell h, stepN_busy (State.goto_seq _ _ _), State.advance_outField]
  simp only [State.shiftOutTick, State.goto_i, State.drive_i, State.delay_i, hi]
  rw [if_neg (by omega)]
  refine congrArg (stepN k) ?_
  ext1 <;> simp [outCell, Configuration.count, h]

/-- The six steps of the last bit. -/
theorem stepN_outCell_zero {s : State} {op : Op} {f : OutField} (h : s.seq = .busy op (f.pos .di))
    (hi : s.i = 0) (k : Nat) :
    stepN (6 + k) s = stepN k (f.follow op (s.shiftedOut op f (f.value (s.envelope op)))) := by
  rw [show 6 + k = 5 + (k + 1) by omega, stepN_outCell h, stepN_busy (State.goto_seq _ _ _), State.advance_outField]
  simp only [State.shiftOutTick, State.goto_i, State.drive_i, State.delay_i, hi, if_true]
  refine congrArg (fun t => stepN k (f.follow op t)) ?_
  ext1 <;> simp [outCell, Configuration.count, State.shiftedOut, shiftOutTrace, hi]

/-- SHIFT_OUT as a whole (42_transport.md R64): from its first event, 6 events per bit, most significant first. -/
theorem stepN_shiftOut {s : State} {op : Op} {f : OutField} {value : Nat} (h : s.seq = .busy op (f.pos .di))
    (hv : f.value (s.envelope op) = value) {m : Nat} (hm : s.i = m) (k : Nat) :
    stepN (6 * (m + 1) + k) s = stepN k (f.follow op (s.shiftedOut op f value)) := by
  induction m generalizing s with
  | zero => rw [← hv]; exact stepN_outCell_zero h hm k
  | succ m ih =>
    rw [show 6 * (m + 1 + 1) + k = 6 + (6 * (m + 1) + k) by omega, stepN_outCell_succ h hm]
    refine Eq.trans (ih h ((congrArg f.value (State.envelope_congr op rfl rfl rfl rfl)).trans hv) rfl) ?_
    refine congrArg (fun t => stepN k (f.follow op t)) ?_
    ext1 <;> simp [State.shiftedOut, shiftOutTrace, hm, hv]

/-- The state after a shift-in of the bits from index `s.i` down, but for the position and the result list. -/
def State.shiftedIn (s : State) : State :=
  { s with
    i := 0, sk := .low, acc := s.acc ||| shiftInWord s.doIn (s.i + 1), doIn := s.doIn.after (s.i + 1),
    trace := s.trace ++ shiftInTrace s.cfg s.doIn (s.i + 1) }

/-- The first four steps of a shifted-in bit; the fifth is left. -/
theorem stepN_inCell {s : State} {op : Op} {j : Nat} (h : s.seq = .busy op (.wordIn j .skHigh)) (k : Nat) :
    stepN (4 + k) s =
      stepN k ((((s.drive .sk true).delay .r).sample.accumulate s.doIn.bit).drive .sk false |>.goto op
        (.wordIn j .dly2)) := by
  rw [show 4 + k = k + 1 + 1 + 1 + 1 by omega, stepN_busy h]
  simp only [State.advance, State.shiftInTick]
  iterate 3
    rw [stepN_busy (State.goto_seq _ _ _)]
    simp only [State.advance, State.shiftInTick]
  congr 1

theorem stepN_inCell_succ {s : State} {op : Op} {j m : Nat} (h : s.seq = .busy op (.wordIn j .skHigh))
    (hi : s.i = m + 1) (k : Nat) :
    stepN (5 + k) s =
      stepN k { s with
        i := m, sk := .low, acc := s.acc ||| (Word.ofBit s.doIn.bit <<< (m + 1)), doIn := s.doIn.next,
        trace := s.trace ++ inCell s.cfg s.doIn.bit } := by
  rw [show 5 + k = 4 + (k + 1) by omega, stepN_inCell h, stepN_busy (State.goto_seq _ _ _)]
  simp only [State.advance, State.shiftInTick, State.accumulate, State.goto_i, State.drive_i, State.setAcc_i,
    State.sample_i, State.delay_i, hi]
  rw [if_neg (by omega)]
  refine congrArg (stepN k) ?_
  ext1 <;> simp [inCell, Configuration.count, h]

theorem stepN_inCell_zero {s : State} {op : Op} {j : Nat} (h : s.seq = .busy op (.wordIn j .skHigh))
    (hi : s.i = 0) (k : Nat) :
    stepN (5 + k) s =
      stepN k (((s.shiftedIn.setWords (s.words ++ [s.shiftedIn.acc])).goto op (.wordIn j .dly2)).nextWord op
        (j + 1)) := by
  rw [show 5 + k = 4 + (k + 1) by omega, stepN_inCell h, stepN_busy (State.goto_seq _ _ _)]
  simp only [State.advance, State.shiftInTick, State.accumulate, State.goto_i, State.drive_i, State.setAcc_i,
    State.sample_i, State.delay_i, hi, if_true]
  refine congrArg (fun t : State => stepN k (t.nextWord op (j + 1))) ?_
  ext1 <;> simp [inCell, Configuration.count, State.shiftedIn, shiftInTrace, shiftInWord, hi]

/-- SHIFT_IN of a whole word (42_transport.md R65): 5 events per bit, most significant first. -/
theorem stepN_shiftIn {s : State} {op : Op} {j : Nat} (h : s.seq = .busy op (.wordIn j .skHigh)) {m : Nat}
    (hm : s.i = m) (k : Nat) :
    stepN (5 * (m + 1) + k) s =
      stepN k (((s.shiftedIn.setWords (s.words ++ [s.shiftedIn.acc])).goto op (.wordIn j .dly2)).nextWord op
        (j + 1)) := by
  induction m generalizing s with
  | zero => exact stepN_inCell_zero h hm k
  | succ m ih =>
    rw [show 5 * (m + 1 + 1) + k = 5 + (5 * (m + 1) + k) by omega, stepN_inCell_succ h hm, ih (by exact h) rfl]
    refine congrArg (fun t : State => stepN k (t.nextWord op (j + 1))) ?_
    ext1 <;> simp [State.shiftedIn, shiftInTrace, shiftInWord, hm, BitVec.or_assoc]

/-- A failed poll below the opted-in limit leads to the delay (42_transport.md R66, R69). -/
theorem State.pollFailed_below {s : State} (op : Op)
    (h : ∀ limit, s.cfg.readyLimit = some limit → s.polls < limit) :
    s.pollFailed op = s.goto op (.readyWait .dly) := by
  unfold State.pollFailed
  cases hq : s.cfg.readyLimit with
  | none => rfl
  | some l => exact if_neg (Nat.ne_of_lt (h l hq))

/-- Two steps of a failed poll. -/
theorem stepN_failedPoll {s : State} {op : Op} (h : s.seq = .busy op (.readyWait .sample))
    (hb : s.doIn.bit = false) (hl : ∀ limit, s.cfg.readyLimit = some limit → s.polls < limit) (k : Nat) :
    stepN (2 + k) s =
      stepN k { s with
        polls := s.polls + 1, doIn := s.doIn.next,
        trace := s.trace ++ [.smp false, .dly .p s.cfg.tP] } := by
  rw [show 2 + k = k + 1 + 1 by omega, stepN_busy h]
  simp only [State.advance, State.pollTick, hb, Bool.false_eq_true, if_false]
  rw [State.pollFailed_below op (by exact hl), stepN_busy (State.goto_seq _ _ _)]
  simp only [State.advance, State.pollTick]
  refine congrArg (stepN k) ?_
  ext1 <;> simp [Configuration.count, hb, h]

/-- The ready-wait that fails n times and then succeeds (42_transport.md R66), within the opted-in limit. -/
theorem stepN_readyWait {s : State} {op : Op} {n : Nat} (h : s.seq = .busy op (.readyWait .sample))
    (hr : ReadyAfter s.doIn n) (hl : LimitAllows s.cfg (s.polls + n)) (k : Nat) :
    stepN (2 * n + 1 + k) s =
      stepN k { s with
        seq := .busy op .csDeassert, polls := s.polls + n, doIn := s.doIn.after (n + 1),
        trace := s.trace ++ readyTrace s.cfg n } := by
  induction n generalizing s with
  | zero =>
    have hb : s.doIn.bit = true := hr.2
    rw [show 2 * 0 + 1 + k = k + 1 by omega, stepN_busy h]
    simp only [State.advance, State.pollTick, hb, if_true]
    refine congrArg (stepN k) ?_
    ext1 <;> simp [readyTrace, failedPolls, hb]
  | succ n ih =>
    have hlt : ∀ limit, s.cfg.readyLimit = some limit → s.polls < limit := fun l hq => by
      have := hl l hq; omega
    rw [show 2 * (n + 1) + 1 + k = 2 + (2 * n + 1 + k) by omega,
      stepN_failedPoll h (hr.1 0 (Nat.succ_pos n)) hlt,
      ih (by exact h) ⟨fun j hj => hr.1 (j + 1) (Nat.succ_lt_succ hj), hr.2⟩
        (fun l hq => by have := hl l hq; simp only at this ⊢; omega)]
    refine congrArg (stepN k) ?_
    ext1 <;> simp [readyTrace, failedPolls]
    omega

end Sys2Proof.Machine
end

