-- ==== Sys2Proof/Laws/Envelope.lean ====
section
/-!
SUPPORT. The three parts of an envelope as runs (42_transport.md R70): what is sent, the words shifted in, the end.
-/

namespace Sys2Proof.Machine

theorem State.afterWords_goto (s : State) (o : Op) (p : Pos) (op : Op) :
    (s.goto o p).afterWords op = s.afterWords op := by
  unfold State.afterWords
  rw [State.envelope_goto]
  split <;> rfl

/-- From the acceptance to the last bit sent: CS assert, start bit, command, payload. -/
theorem stepN_sending (s : State) (op : Op) (k : Nat) :
    stepN (1 + 6 * (1 + (s.cfg.aw + 2)) + 6 * (((s.envelope op).payload.map Encoded.length).getD 0) + k)
        (s.launch op) =
      stepN k (({ s with
        words := [], cs := .high, sk := .low, i := 0,
        di := Latch.ofBit ((lastOut (s.envelope op)).testBit 0),
        trace := s.trace ++ sendTrace s.cfg (s.envelope op),
        seq := if (s.envelope op).payload = none then .busy op (.command .dly3)
          else .busy op (.payloadOut .dly3) } : State).nextWord op 0) := by
  rw [show 1 + 6 * (1 + (s.cfg.aw + 2)) + 6 * (((s.envelope op).payload.map Encoded.length).getD 0) + k =
      (6 * (0 + 1) + (6 * ((s.cfg.aw + 1) + 1) +
        (6 * (((s.envelope op).payload.map Encoded.length).getD 0) + k))) + 1 by omega]
  rw [stepN_busy (s := s.launch op) (State.goto_seq _ _ _)]
  refine (stepN_shiftOut (s := ((s.launch op).delay .cs).enterShiftOut op .start 1) (f := .start) rfl rfl rfl _).trans ?_
  simp only [OutField.follow, State.afterStart]
  generalize hs1 : State.shiftedOut _ op OutField.start _ = s1
  have e1 : s1.envelope op = s.envelope op := by
    subst hs1
    exact State.envelope_congr op (by simp [State.launch, State.shiftedOut, State.enterShiftOut])
      (by simp [State.launch, State.shiftedOut, State.enterShiftOut])
      (by simp [State.launch, State.shiftedOut, State.enterShiftOut])
      (by simp [State.launch, State.shiftedOut, State.enterShiftOut])
  refine (stepN_shiftOut (f := .command) (value := (s.envelope op).cmd.value)
    (s := State.enterShiftOut _ op .command _) (State.goto_seq _ _ _)
    (by simp [State.enterShiftOut, OutField.value, e1]) (m := s.cfg.aw + 1)
    (by subst hs1; simp [State.enterShiftOut, State.shiftedOut, State.launch]) _).trans ?_
  generalize hs2 : State.shiftedOut _ op OutField.command _ = s2
  have e2 : s2.envelope op = s.envelope op := by
    rw [← e1]
    subst hs2
    exact State.envelope_congr op (by simp [State.shiftedOut, State.enterShiftOut])
      (by simp [State.shiftedOut, State.enterShiftOut]) (by simp [State.shiftedOut, State.enterShiftOut])
      (by simp [State.shiftedOut, State.enterShiftOut])
  simp only [OutField.follow, State.afterCommand, e2]
  cases hp : (s.envelope op).payload with
  | none =>
    simp only [Option.map, Option.getD, Nat.mul_zero, Nat.zero_add]
    refine congrArg (fun t : State => stepN k (t.nextWord op 0)) ?_
    subst hs2 hs1
    ext1 <;> simp [State.shiftedOut, State.enterShiftOut, State.launch, sendTrace, payloadTrace, lastOut, hp,
      OutField.pos, OutField.value, Configuration.count]
  | some e =>
    simp only [Option.map, Option.getD]
    have hl := State.envelope_payload_length hp
    have hw := s.cfg.w_pos
    have hl' : e.length - 1 + 1 = e.length := by omega
    rw [← hl']
    refine (stepN_shiftOut (f := .payload) (op := op) (value := e.value)
      (s := State.enterShiftOut s2 op .payloadOut (e.length - 1 + 1)) (State.goto_seq _ _ _)
      (by simp [State.enterShiftOut, OutField.value, e2, hp]) (m := e.length - 1)
      (by simp [State.enterShiftOut]) k).trans ?_
    simp only [OutField.follow, State.afterPayload]
    refine congrArg (fun t : State => stepN k (t.nextWord op 0)) ?_
    subst hs2 hs1
    ext1 <;> simp [State.shiftedOut, State.enterShiftOut, State.launch, sendTrace, payloadTrace, lastOut, hp,
      OutField.pos, OutField.value, Configuration.count, hl']

/-- The words from word j on: r words shifted in one after the other, with no event between them. -/
theorem stepN_words (op : Op) (r : Nat) (j : Nat) (s : State) (h : (s.envelope op).inWords = j + r)
    (hsk : s.sk = .low) (hi : s.i = 0) (k : Nat) :
    stepN (5 * (s.cfg.w * r) + k) (s.nextWord op j) =
      stepN k (({ s with
        acc := (shiftInWords s.cfg s.doIn r).getLastD s.acc, words := s.words ++ shiftInWords s.cfg s.doIn r,
        doIn := s.doIn.after (s.cfg.w * r), trace := s.trace ++ wordsTrace s.cfg s.doIn r } : State).afterWords op) := by
  induction r generalizing j s with
  | zero => simp [State.nextWord, h, shiftInWords, wordsTrace]
  | succ r ih =>
    have hw := s.cfg.w_pos
    rw [State.nextWord, if_pos (by omega), State.enterWord]
    rw [show 5 * (s.cfg.w * (r + 1)) + k = 5 * ((s.cfg.w - 1) + 1) + (5 * (s.cfg.w * r) + k) by
      rw [Nat.sub_add_cancel hw]; ring]
    refine (stepN_shiftIn (s := ((s.setAcc 0).setI (s.cfg.w - 1)).goto op (.wordIn j .skHigh)) (State.goto_seq _ _ _)
      rfl _).trans ?_
    generalize hs1 : State.goto _ op _ = s1
    have e1 : s1.envelope op = s.envelope op := by
      subst hs1
      exact State.envelope_congr op (by simp [State.shiftedIn]) (by simp [State.shiftedIn])
        (by simp [State.shiftedIn]) (by simp [State.shiftedIn])
    have hc : s1.cfg = s.cfg := by subst hs1; simp [State.shiftedIn]
    have hr := ih (j + 1) s1 (by rw [e1]; omega) (by subst hs1; simp [State.shiftedIn])
      (by subst hs1; simp [State.shiftedIn])
    rw [hc] at hr
    refine hr.trans ?_
    rw [← State.afterWords_goto { s with acc := _, words := _, doIn := _, trace := _ } op (.wordIn j .dly2) op]
    refine congrArg (fun t : State => stepN k (t.afterWords op)) ?_
    have hh : s.cfg.w - 1 + 1 = s.cfg.w := Nat.sub_add_cancel hw
    subst hs1
    ext1 <;> simp [State.shiftedIn, shiftInWords, wordsTrace, hh, hsk, hi]
    · cases hq : shiftInWords s.cfg (s.doIn.after s.cfg.w) r <;> simp [List.getLast?_cons]
    · rw [← DoInput.after_add]; congr 1; ring

/-- The end: the ready-wait where there is one, with n failed polls, then `CS=0` and the return. -/
theorem stepN_ending (s : State) (op : Op) (n k : Nat)
    (h : (s.envelope op).wait = true → ReadyAfter s.doIn n ∧ LimitAllows s.cfg n) :
    stepN ((if (s.envelope op).wait then 2 * n + 1 else 0) + (1 + k)) (s.afterWords op) =
      stepN k (({ s with
        polls := if (s.envelope op).wait then n else s.polls,
        doIn := s.doIn.after (if (s.envelope op).wait then n + 1 else 0),
        trace := s.trace ++ (if (s.envelope op).wait then readyTrace s.cfg n else []) ++ [.drive .cs false],
        cs := .low } : State).complete op) := by
  unfold State.afterWords
  cases hw : (s.envelope op).wait
  · simp only [Bool.false_eq_true, if_false]
    rw [show 0 + (1 + k) = k + 1 by omega, stepN_busy (State.goto_seq _ _ _)]
    refine congrArg (stepN k) ?_
    ext1 <;> simp [State.advance, State.complete, State.result]
  · simp only [if_true]
    obtain ⟨h1, h2⟩ := h hw
    refine (stepN_readyWait (s := s.enterReadyWait op) rfl (n := n) h1
      (by simpa [State.enterReadyWait] using h2) _).trans ?_
    rw [show 1 + k = k + 1 by omega, stepN_busy rfl]
    refine congrArg (stepN k) ?_
    ext1 <;> simp [State.advance, State.complete, State.result, State.enterReadyWait]

end Sys2Proof.Machine
end

