-- ==== Sys2Proof/Laws/Geometry.lean ====
section
/-! SUPPORT. Laws of the geometry and of the frame number. -/

namespace Sys2Proof

/-- The shift-and-or mask is all ones over the address width (40_geometry.md section 4). -/
theorem Configuration.am_eq (c : Configuration) : c.am = 2 ^ c.aw - 1 := by
  unfold Configuration.am Configuration.aw; cases c.org <;> cases c.model <;> decide

/-- The word count fits the address width (40_geometry.md section 4). -/
theorem Configuration.wc_le (c : Configuration) : c.wc ≤ 2 ^ c.aw := by
  unfold Configuration.wc Configuration.aw; cases c.org <;> cases c.model <;> decide

theorem Configuration.aw_ge (c : Configuration) : 6 ≤ c.aw := by
  unfold Configuration.aw; cases c.org <;> cases c.model <;> decide

end Sys2Proof

namespace Sys2Proof.Machine

theorem addressMask_eq (org : Organization) (model : Model) :
    addressMask org model = 2 ^ addressWidth org model - 1 := by cases org <;> cases model <;> decide

theorem addressWidth_ge (org : Organization) (model : Model) : 6 ≤ addressWidth org model := by
  cases org <;> cases model <;> decide

/-- The two cases of `maskInt` in one formula (decision D9). -/
theorem maskInt_toNat (x : Int) (n : Nat) : maskInt x (2 ^ n - 1) = (x % 2 ^ n).toNat := by
  have hn : 2 ^ n - 1 + 1 = 2 ^ n := Nat.sub_add_cancel Nat.one_le_two_pow
  cases x with
  | ofNat k => rw [maskInt, Nat.and_two_pow_sub_one_eq_mod]; rfl
  | negSucc k =>
    simp only [maskInt, hn]
    push_cast
    rfl

theorem maskInt_lt (x : Int) (n : Nat) : maskInt x (2 ^ n - 1) < 2 ^ n := by
  have h0 : (0 : Int) < 2 ^ n := by positivity
  rw [maskInt_toNat]
  have := Int.emod_lt_of_pos x h0
  have := Int.emod_nonneg x h0.ne'
  zify
  omega

/-- A control frame's command value fits its length (30_encoding.md R45). -/
theorem encControl_value_lt (aw : Nat) (sub : SubCommand) (h : 2 ≤ aw) :
    (encControl aw sub).value < 2 ^ (encControl aw sub).length := by
  obtain ⟨a, rfl⟩ : ∃ a, aw = a + 2 := ⟨aw - 2, by omega⟩
  have hs : sub.code < 4 := by cases sub <;> decide
  simp only [encControl, Opcode.code, Nat.add_sub_cancel, Nat.shiftLeft_eq, Nat.zero_mul, Nat.zero_or]
  calc sub.code * 2 ^ a < 4 * 2 ^ a := Nat.mul_lt_mul_of_pos_right hs (by positivity)
    _ ≤ 2 ^ (a + 2 + 2) := by rw [pow_add, pow_add]; omega

/-- An addressed frame's command value fits its length (30_encoding.md R46). -/
theorem encAddressed_value_lt (aw : Nat) (opc : Opcode) (addr : Int) :
    (encAddressed aw (2 ^ aw - 1) opc addr).value < 2 ^ (encAddressed aw (2 ^ aw - 1) opc addr).length := by
  have ho : opc.code < 4 := by cases opc <;> decide
  simp only [encAddressed]
  refine Nat.or_lt_two_pow ?_ (lt_of_lt_of_le (maskInt_lt addr aw) (Nat.pow_le_pow_right (by omega) (by omega)))
  rw [Nat.shiftLeft_eq]
  calc opc.code * 2 ^ aw < 4 * 2 ^ aw := Nat.mul_lt_mul_of_pos_right ho (by positivity)
    _ = 2 ^ (aw + 2) := by rw [pow_add]; omega

/-- The start bit is the top bit of a frame (30_encoding.md R42). -/
theorem frameOf_shiftRight (cmd : Encoded) (h : cmd.value < 2 ^ cmd.length) : frameOf cmd >>> cmd.length = 1 := by
  unfold frameOf
  rw [Nat.shiftRight_or_distrib, Nat.shiftRight_eq_div_pow cmd.value, Nat.div_eq_of_lt h, Nat.or_zero,
    Nat.shiftRight_eq_div_pow, Nat.shiftLeft_eq, Nat.mul_div_cancel _ (by positivity)]

end Sys2Proof.Machine
end

