-- ==== Sys2Proof/Laws/PerInstr.lean ====
section
/-!
SUPPORT. The family `FrameShape` over all instructions: a request's frame is its start bit on top of `AW + 2` bits, or,
for `is_write_enabled`, no bits at all (30_encoding.md R42, R45, R46, R51).
-/

open Sys2Proof Sys2Proof.Machine

/-- A request with a command has a frame whose top set bit stands at `AW + 2`; one without has the frame number 0. -/
def Sys2Proof.Laws.FrameShape.Statement (i : Instr) : Prop :=
  ∀ (org : Organization) (model : Model),
    match commandOf org model i with
    | none => frameNumber org model i = 0
    | some c => c.length = addressWidth org model + 2 ∧ frameNumber org model i >>> (addressWidth org model + 2) = 1

theorem Sys2Proof.Laws.controlFrame_shape (org : Organization) (model : Model) (sub : SubCommand) :
    frameOf (encControl (addressWidth org model) sub) >>> (addressWidth org model + 2) = 1 :=
  frameOf_shiftRight (encControl (addressWidth org model) sub)
    (encControl_value_lt _ _ (by have := addressWidth_ge org model; omega))

theorem Sys2Proof.Laws.addressedFrame_shape (org : Organization) (model : Model) (opc : Opcode) (a : Int) :
    frameOf (encAddressed (addressWidth org model) (addressMask org model) opc a) >>> (addressWidth org model + 2) = 1 := by
  rw [addressMask_eq]
  exact frameOf_shiftRight (encAddressed (addressWidth org model) _ opc a) (encAddressed_value_lt _ _ _)

theorem Sys2Proof.Laws.FrameShape.enableWrite : Statement .enableWrite :=
  fun org model => ⟨rfl, Sys2Proof.Laws.controlFrame_shape org model _⟩

theorem Sys2Proof.Laws.FrameShape.disableWrite : Statement .disableWrite :=
  fun org model => ⟨rfl, Sys2Proof.Laws.controlFrame_shape org model _⟩

theorem Sys2Proof.Laws.FrameShape.isWriteEnabled : Statement .isWriteEnabled := fun _ _ => rfl

theorem Sys2Proof.Laws.FrameShape.eraseAll : Statement .eraseAll :=
  fun org model => ⟨rfl, Sys2Proof.Laws.controlFrame_shape org model _⟩

theorem Sys2Proof.Laws.FrameShape.writeAll (value : Int) : Statement (.writeAll value) :=
  fun org model => ⟨rfl, Sys2Proof.Laws.controlFrame_shape org model _⟩

theorem Sys2Proof.Laws.FrameShape.erase (addr : Int) : Statement (.erase addr) :=
  fun org model => ⟨rfl, Sys2Proof.Laws.addressedFrame_shape org model _ addr⟩

theorem Sys2Proof.Laws.FrameShape.write (addr value : Int) : Statement (.write addr value) :=
  fun org model => ⟨rfl, Sys2Proof.Laws.addressedFrame_shape org model _ addr⟩

theorem Sys2Proof.Laws.FrameShape.read (addr : Int) : Statement (.read addr) :=
  fun org model => ⟨rfl, Sys2Proof.Laws.addressedFrame_shape org model _ addr⟩

theorem Sys2Proof.Laws.FrameShape.readSequential (addr count : Int) : Statement (.readSequential addr count) :=
  fun org model => ⟨rfl, Sys2Proof.Laws.addressedFrame_shape org model _ addr⟩
end

