-- ==== Sys2Proof/Laws/Step.lean ====
section
/-!
SUPPORT. What an accepted request and what a step of one in flight can do, said once.
-/

namespace Sys2Proof.Machine

/-- A request answers a next state only from idle, and changes neither the configuration, nor the latch, nor the outside of
DO, nor the host's later requests; its trace is empty or `CS=1`, and it gives a reply only where it ends at once. -/
theorem exec_next_frame {i : Instr} {s t : State} (h : exec i s = .next t) :
    s.seq = .idle ∧ t.cfg = s.cfg ∧ t.wen = s.wen ∧ t.doIn = s.doIn ∧ t.requests = s.requests ∧
      ((t.trace = s.trace ∧ t.seq = .idle ∧ ∃ r, t.replies = s.replies ++ [r]) ∨
        (t.trace = s.trace ++ [.drive .cs true] ∧ t.replies = s.replies ∧ ∃ op, t.seq = .busy op .csAssert)) := by
  cases i <;>
    simp only [exec, execEnableWrite, execDisableWrite, execIsWriteEnabled, execEraseAll, execWriteAll, execErase,
      execWrite, execRead, execReadSequential, whenIdle, State.guardAndValidate, State.latchGuard, State.validate] at h <;>
    (repeat' split at h) <;> cases h <;> simp [State.launch, *]

/-- A request is accepted from every idle state, but for a negative count. -/
theorem exec_idle {i : Instr} {s : State} (hs : s.seq = .idle) (hi : i.wellFormed = true) :
    ∃ t, exec i s = .next t := by
  cases i with
  | readSequential addr count =>
    simp only [Instr.wellFormed, decide_eq_true_eq] at hi
    simp [exec, execReadSequential, hi, whenIdle, hs]
  | _ =>
    simp [exec, execEnableWrite, execDisableWrite, execIsWriteEnabled, execEraseAll, execWriteAll, execErase,
      execWrite, execRead, whenIdle, hs]

/-- An admitted host issues an admitted request and is admitted after it (decision D9). -/
theorem Admitted.next {h k : HostCalls} {i : Instr} (ha : Admitted h) (hn : h.next = some (i, k)) :
    i.wellFormed = true ∧ Admitted k := by
  have ht := HostCalls.next_tail hn
  obtain ⟨hq, hr⟩ := ha
  unfold Admitted
  rw [ht]
  unfold HostCalls.next at hn
  split at hn
  · rename_i j rest he
    cases hn
    rw [he] at hq
    exact ⟨hq _ (by simp), fun x hx => hq x (by simp [hx]), hr⟩
  · split at hn
    · cases hn
    · rename_i first rest he
      cases hn
      have := hr _ _ he
      exact ⟨this _ (by simp), fun x hx => this x (by simp [hx]), hr⟩
    · cases hn
      exact ⟨by simp, hq, hr⟩

/-- A host that never stops has a next request and never stops after it (60_exceptions.md R107). -/
theorem Endless.next {h : HostCalls} (he : Endless h) : ∃ i k, h.next = some (i, k) ∧ Endless k := by
  have hs : ∃ i k, h.next = some (i, k) := by
    unfold HostCalls.next
    split
    · exact ⟨_, _, rfl⟩
    · split
      · exact absurd ‹_› he
      · exact ⟨_, _, rfl⟩
      · exact ⟨_, _, rfl⟩
  obtain ⟨i, k, hn⟩ := hs
  exact ⟨i, k, hn, by unfold Endless; rw [HostCalls.next_tail hn]; exact he⟩

/-- What follows a shift-out or a word: a later position of the same request; besides it only the
bit index, the accumulator and the poll count change. -/
theorem State.nextWord_frame (s : State) (op : Op) (k : Nat) :
    ∃ acc i polls pos, s.nextWord op k = { s with acc := acc, i := i, polls := polls, seq := .busy op pos } := by
  simp only [State.nextWord, State.afterWords]
  split
  · exact ⟨_, _, _, _, rfl⟩
  · split <;> exact ⟨_, _, _, _, rfl⟩

theorem State.afterCommand_frame (s : State) (op : Op) :
    ∃ acc i polls pos, s.afterCommand op = { s with acc := acc, i := i, polls := polls, seq := .busy op pos } := by
  simp only [State.afterCommand]
  split
  · exact ⟨_, _, _, _, rfl⟩
  · exact s.nextWord_frame op 0

/-- A step of a request in flight never changes the configuration, the
operand latches or the host's later requests, and adds exactly one event. -/
theorem State.advance_frame (s : State) (op : Op) (pos : Pos) :
    (s.advance op pos).cfg = s.cfg ∧ (s.advance op pos).a = s.a ∧ (s.advance op pos).v = s.v ∧
      (s.advance op pos).n = s.n ∧ (s.advance op pos).requests = s.requests ∧
      ∃ e, (s.advance op pos).trace = s.trace ++ [e] := by
  have out : ∀ (here : OutPhase → Pos) (value : Nat) (after : State → State) (p : OutPhase),
      (∃ acc i polls pos, after (s.delay .w) =
        { s.delay .w with acc := acc, i := i, polls := polls, seq := .busy op pos }) →
      (s.shiftOutTick op here value after p).cfg = s.cfg ∧ (s.shiftOutTick op here value after p).a = s.a ∧
        (s.shiftOutTick op here value after p).v = s.v ∧ (s.shiftOutTick op here value after p).n = s.n ∧
        (s.shiftOutTick op here value after p).requests = s.requests ∧
        ∃ e, (s.shiftOutTick op here value after p).trace = s.trace ++ [e] := by
    rintro here value after p ⟨acc, i, polls, q, ha⟩
    cases p <;> simp only [State.shiftOutTick]
    case dly3 =>
      split
      · rw [ha]; exact ⟨rfl, rfl, rfl, rfl, rfl, _, rfl⟩
      · exact ⟨rfl, rfl, rfl, rfl, rfl, _, rfl⟩
    all_goals exact ⟨rfl, rfl, rfl, rfl, rfl, _, rfl⟩
  cases pos with
  | start p => exact out _ _ _ p ⟨_, _, _, _, rfl⟩
  | command p => exact out _ _ _ p (State.afterCommand_frame _ op)
  | payloadOut p => exact out _ _ _ p (State.nextWord_frame _ op 0)
  | wordIn k p =>
    cases p <;> simp only [State.advance, State.shiftInTick]
    case dly2 =>
      split
      · obtain ⟨acc, i, polls, q, h⟩ := State.nextWord_frame ((s.setWords (s.words ++ [s.acc])).delay .r) op (k + 1)
        rw [h]; exact ⟨rfl, rfl, rfl, rfl, rfl, _, rfl⟩
      · exact ⟨rfl, rfl, rfl, rfl, rfl, _, rfl⟩
    all_goals exact ⟨rfl, rfl, rfl, rfl, rfl, _, rfl⟩
  | readyWait p =>
    cases p <;> simp only [State.advance, State.pollTick, State.pollFailed]
    · (repeat' split) <;> exact ⟨rfl, rfl, rfl, rfl, rfl, _, rfl⟩
    · exact ⟨rfl, rfl, rfl, rfl, rfl, _, rfl⟩
  | csAssert => exact ⟨rfl, rfl, rfl, rfl, rfl, _, rfl⟩
  | csDeassert => exact ⟨rfl, rfl, rfl, rfl, rfl, _, rfl⟩
  | timeoutDeassert l => exact ⟨rfl, rfl, rfl, rfl, rfl, _, rfl⟩

end Sys2Proof.Machine
end

