-- ==== Sys2Proof/Tests/Slice0.lean ====
section
/-!
SUPPORT. Own tests: the ill-formed terms the checks refuse, words written out from the frame formats, the spec's vectors,
and for every statement with hypotheses a state that meets them. Expected results are from the spec's file named.
-/

namespace Sys2Proof.Tests

open Sys2Proof Sys2Proof.Machine

/-! ## States -/

/-- An engine of an organization and model. -/
def chip (org : Organization) (model : Model) : Configuration :=
  { Config.resetConfiguration with org := org, model := model }

/-- An idle engine with the latch as given, the bits to come on DO, and zeros after them. -/
def engine (c : Configuration) (wen : Bool) (bits : List Bit) : State :=
  { State.constructed c with wen := wen, doIn := { queue := bits, tail := .stuck false, taken := 0 } }

/-- The reset engine, idle, with the latch set. -/
def enabled (bits : List Bit) : State := engine Config.resetConfiguration true bits

/-- An engine with a request in flight: index `i` at a position, CS high, SK low. -/
def inFlight (op : Op) (pos : Pos) (i : Nat) (bits : List Bit) : State :=
  { enabled bits with cs := .high, sk := .low, di := .low, i := i, seq := .busy op pos, trace := [.drive .cs true] }

/-- The reset engine with a host that issues these requests and then goes on as its tail says. -/
def called (queue : List Instr) (tail : HostTail) : State :=
  { State.reset with requests := { queue := queue, tail := tail, taken := 0 } }

/-- The opt-in to a bounded ready-wait. -/
def bounded (s : State) (limit : Nat) : State := s.optIn limit

/-! ## What the checks refuse -/

theorem test_wellFormed_refuses_negative_count : (Instr.readSequential 0 (-1)).wellFormed = false := by decide
theorem test_wellFormed_admits_count_zero : (Instr.readSequential 0 0).wellFormed = true := by decide
theorem test_decode_refuses_three_bytes : decode [0x80, 0x01, 0x00] = .error .truncated := by rfl
theorem test_decode_refuses_misplaced_start_bit : decode [0x80, 0x00, 0x00, 0x00] = .error .notAFrame := by rfl
theorem test_decode_refuses_filler : decode [0x01, 0x01, 0x00, 0x00] = .error .fillerNotZero := by rfl
theorem test_decode_refuses_stray_operand : decode [0x30, 0x01, 0x01, 0x00] = .error .strayOperand := by rfl
theorem test_decode_refuses_wide_payload : decode [0xB1, 0x02, 0x00, 0x01] = .error .payloadTooWide := by rfl
theorem test_construct_refuses_model_99 :
    construct 99 16 0 0 0 0 = .fault (.noEngine (.configurationError 99)) := by rfl
theorem test_construct_refuses_organization_12 :
    construct 46 12 0 0 0 0 = .fault (.noEngine (.configurationError 12)) := by rfl

/-! ## Words written out from 30_encoding.md sections 1 and 2: start bit, opcode, sub-command or address, payload -/

theorem test_word_enable_write : decodeTableWord 16 0b1_00_11_0000 = some .enableWrite := by decide
theorem test_word_disable_write : decodeTableWord 16 0b1_00_00_00000 = some .disableWrite := by decide
theorem test_word_erase_all : decodeTableWord 16 0b1_00_10_000000 = some .eraseAll := by decide
theorem test_word_write_all :
    decodeTableWord 32 (0b1_00_01_0000000 + 0x66 * 2 ^ 16) = some (.writeAll 0x66) := by decide
theorem test_word_erase : decodeTableWord 16 0b1_11_0111111111 = some (.erase 0x1FF) := by decide
theorem test_word_write :
    decodeTableWord 32 (0b1_01_00110001 + 0x66AF * 2 ^ 16) = some (.write 0x31 0x66AF) := by decide
theorem test_word_read : decodeTableWord 16 0b1_10_01111111111 = some (.read 0x3FF) := by decide
theorem test_word_read_sequential :
    decodeTableWord 32 (0b1_10_111111 + 3 * 2 ^ 16) = some (.readSequential 0x3F 2) := by decide
theorem test_word_is_write_enabled : decodeTableWord 0 0 = some .isWriteEnabled := by decide

/-! ## The spec's vectors (95_test_vectors.md 2.2 to 2.7) -/

theorem test_vector_enable_write_command : encControl 8 .enableWrite = ⟨0xC0, 10⟩ := by decide
theorem test_vector_write_all_command : encControl 11 .writeAll = ⟨0x200, 13⟩ := by decide
theorem test_vector_erase_command : encAddressed 11 0x7FF .erase 0x7FF = ⟨0x1FFF, 13⟩ := by decide
theorem test_vector_read_command_clipped : encAddressed 6 0x3F .read 0x7F = ⟨0xBF, 8⟩ := by decide
theorem test_vector_payload_org8 : encPayload 8 0xFFFF = ⟨0xFF, 8⟩ := by decide
theorem test_vector_payload_negative : encPayload 16 (-1) = ⟨0xFFFF, 16⟩ := by decide
theorem test_vector_shift_in_first_sample :
    shiftInWord ⟨[true, false, true], .stuck false, 0⟩ 3 = 5 := by decide
theorem test_vector_sequential_words_truncated : sequentialWords (chip .org16 .m66) 254 5 = 2 := by decide
theorem test_vector_enable_write_events :
    envelopeEvents (chip .org16 .m56) (enableWriteEnvelope State.reset) 0 = 69 := by decide
theorem test_vector_write_events :
    envelopeEvents (chip .org16 .m56) (writeEnvelope { State.reset with a := 0x31, v := 0x66AF }) 2 = 170 := by decide

/-- One step of each request (95_test_vectors.md 2.7): the wire requests begin with `CS=1`. -/
theorem test_step_enable_write :
    step (called [.enableWrite] .ends) =
      .next { State.reset with cs := .high, seq := .busy .enableWrite .csAssert, trace := [.drive .cs true] } := by rfl
theorem test_step_is_write_enabled_false :
    exec .isWriteEnabled State.reset = .next { State.reset with replies := [.boolean false] } := by rfl
theorem test_step_erase_all_disabled :
    exec .eraseAll State.reset = .next { State.reset with replies := [.none] } := by rfl
theorem test_step_write_all_disabled :
    exec (.writeAll 0x1234) State.reset = .next { State.reset with replies := [.none] } := by rfl
theorem test_step_erase_out_of_range :
    exec (.erase 512) (engine (chip .org16 .m76) true []) =
      .next { engine (chip .org16 .m76) true [] with replies := [.error (.addressOutOfRange 512)] } := by rfl
theorem test_step_write_negative_address :
    exec (.write (-1) 0) (engine (chip .org8 .m86) true []) =
      .next { engine (chip .org8 .m86) true [] with replies := [.error (.addressOutOfRange (-1))] } := by rfl
theorem test_step_read_out_of_range :
    exec (.read (-1)) State.reset = .next { State.reset with replies := [.error (.addressOutOfRange (-1))] } := by rfl
theorem test_step_read_sequential_out_of_range :
    exec (.readSequential 256 1) (engine (chip .org8 .m56) false []) =
      .next { engine (chip .org8 .m56) false [] with replies := [.error (.addressOutOfRange 256)] } := by rfl
theorem test_step_disable_write_clears_at_the_end :
    step (inFlight .disableWrite .csDeassert 0 []) =
      .next { inFlight .disableWrite .csDeassert 0 [] with
        wen := false, cs := .low, seq := .idle, trace := [.drive .cs true, .drive .cs false],
        replies := [.none] } := by rfl

/-! ## Witnesses: states that meet the hypotheses of each statement -/

/-- MaskNeverClipsALegalAddress: the two ends of the range; their neighbours are outside it. -/
theorem test_witness_legal_address :
    addressInRange (chip .org16 .m56) 0 = true ∧ addressInRange (chip .org16 .m56) 127 = true ∧
      addressInRange (chip .org16 .m56) (-1) = false ∧ addressInRange (chip .org16 .m56) 128 = false := by decide

/-- ConstructionFailsExactlyOnBadArguments: a bad model, a bad organization, and valid arguments. -/
theorem test_witness_construction :
    (99 : Int) ∉ [46, 56, 66, 76, 86] ∧ (12 : Int) ∉ [8, 16] ∧ (86 : Int) ∈ [46, 56, 66, 76, 86] ∧
      (8 : Int) ∈ [8, 16] := by decide

/-- ConstructedEngineIsIdleDisabledAndSilent. -/
theorem test_witness_constructed : ∃ s, construct 46 8 1 2 3 4 = .next s := ⟨_, rfl⟩

/-- ShiftedOutBitIsItsSixEvents: each field, the last bit and one before it. -/
theorem test_witness_bit_out :
    (inFlight .write (.start .di) 0 []).seq = .busy .write (OutField.start.pos .di) ∧
      (inFlight .write (.command .di) 9 []).seq = .busy .write (OutField.command.pos .di) ∧
      (inFlight .write (.payloadOut .di) 15 []).seq = .busy .write (OutField.payload.pos .di) := by decide

/-- ShiftedInBitIsItsFiveEvents. -/
theorem test_witness_bit_in :
    (inFlight .read (.wordIn 0 .skHigh) 15 [true]).seq = .busy .read (.wordIn 0 .skHigh) ∧
      (inFlight .read (.wordIn 0 .skHigh) 15 [true]).i = 14 + 1 := by decide

/-- ShiftedInWordHoldsItsSamples: the bound is met by both word widths. -/
theorem test_witness_word_width : wordWidth .org8 ≤ 16 ∧ wordWidth .org16 ≤ 16 := by decide

theorem test_witness_ready (k : Nat) (t : DoTail) (n : Nat) :
    ReadyAfter ⟨List.replicate k false ++ [true], t, n⟩ k := by
  induction k generalizing n with
  | zero => exact ⟨fun j hj => absurd hj (Nat.not_lt_zero j), rfl⟩
  | succ k ih =>
    refine ⟨fun j hj => ?_, (ih (n + 1)).2⟩
    cases j with
    | zero => rfl
    | succ j => exact (ih (n + 1)).1 j (Nat.lt_of_succ_lt_succ hj)

theorem test_witness_never (n : Nat) : NeverReady ⟨[], .stuck false, n⟩ := by
  intro j
  induction j generalizing n with
  | zero => rfl
  | succ j ih => exact ih (n + 1)

theorem test_witness_no_limit (s : State) (h : s.cfg.readyLimit = none) (k : Nat) : LimitAllows s.cfg k :=
  fun limit hl => by rw [h] at hl; cases hl

/-- ReadyWaitEndsAtTheFirstOne: no failed poll without a limit; exactly the limit's number of them with one. -/
theorem test_witness_ready_wait :
    (let s := inFlight .erase (.readyWait .sample) 0 [true];
      s.seq = .busy .erase (.readyWait .sample) ∧ s.polls = 0 ∧ ReadyAfter s.doIn 0 ∧ LimitAllows s.cfg 0) ∧
    (let s := bounded (inFlight .erase (.readyWait .sample) 0 [false, false, true]) 2;
      s.seq = .busy .erase (.readyWait .sample) ∧ s.polls = 0 ∧ ReadyAfter s.doIn 2 ∧ LimitAllows s.cfg 2) :=
  ⟨⟨rfl, rfl, test_witness_ready 0 _ 0, test_witness_no_limit _ rfl 0⟩,
    rfl, rfl, test_witness_ready 2 _ 0, fun limit h => by cases h; exact Nat.le_refl 2⟩

/-- ReadyWaitHangsWithoutAOne. -/
theorem test_witness_hang :
    let s := inFlight .erase (.readyWait .sample) 0 []
    s.seq = .busy .erase (.readyWait .sample) ∧ s.cfg.readyLimit = none ∧ NeverReady s.doIn :=
  ⟨rfl, rfl, test_witness_never 0⟩

/-- BoundedReadyWaitTimesOut: the limits 0 and 2 (95_test_vectors.md 2.5). -/
theorem test_witness_timeout :
    (let s := bounded (inFlight .erase (.readyWait .sample) 0 []) 0;
      s.seq = .busy .erase (.readyWait .sample) ∧ s.polls = 0 ∧ s.cfg.readyLimit = some 0 ∧
        ∀ j, j ≤ 0 → s.doIn.nth j = false) ∧
    (let s := bounded (inFlight .erase (.readyWait .sample) 0 []) 2;
      s.seq = .busy .erase (.readyWait .sample) ∧ s.polls = 0 ∧ s.cfg.readyLimit = some 2 ∧
        ∀ j, j ≤ 2 → s.doIn.nth j = false) :=
  ⟨⟨rfl, rfl, rfl, fun j _ => test_witness_never 0 j⟩, rfl, rfl, rfl, fun j _ => test_witness_never 0 j⟩

/-- SteppingRefinesTheEnvelopeProcedure: a request that waits through one failed poll; one that shifts words in; and one
that does neither. -/
theorem test_witness_refinement :
    (let s := enabled [false, true];
      (s.envelope .erase).wait = true ∧ ReadyAfter s.doIn 1 ∧ LimitAllows s.cfg 1) ∧
    ((enabled []).envelope .read).wait = false ∧ ((enabled []).envelope .read).inWords ≠ 0 ∧
    ((enabled []).envelope .enableWrite).wait = false :=
  ⟨⟨rfl, test_witness_ready 1 _ 0, test_witness_no_limit _ rfl 1⟩, rfl, by decide, rfl⟩

/-- EnableWrite…, DisableWrite…, IsWriteEnabled…, and, with both values of the latch, EraseAll…, WriteAll…: idle; the
ready, the hanging and the timing-out outside of DO. -/
theorem test_witness_unaddressed :
    State.reset.seq = .idle ∧ State.reset.wen = false ∧ (enabled [false, true]).seq = .idle ∧
      (enabled [false, true]).wen = true ∧ ReadyAfter (enabled [false, true]).doIn 1 ∧
      LimitAllows (enabled [false, true]).cfg 1 ∧ NeverReady (enabled []).doIn ∧
      (enabled []).cfg.readyLimit = none ∧ (bounded (enabled []) 1).cfg.readyLimit = some 1 ∧
      ∀ j, j ≤ 1 → (bounded (enabled []) 1).doIn.nth j = false :=
  ⟨rfl, rfl, rfl, rfl, test_witness_ready 1 _ 0, test_witness_no_limit _ rfl 1, test_witness_never 0, rfl, rfl,
    fun j _ => test_witness_never 0 j⟩

/-- Erase…, Write…, Read… (both clauses), SequentialReadOfOneWordIsARead, AcceptedRequestRaisesChipSelect: idle, the
latch set, an address at each end of the range and one outside. -/
theorem test_witness_addressed :
    (enabled []).seq = .idle ∧ (enabled []).wen = true ∧ addressInRange (enabled []).cfg 0 = true ∧
      addressInRange (enabled []).cfg 127 = true ∧ addressInRange (enabled []).cfg 128 = false := by decide

/-- ReadSequentialShiftsInItsWords: count 0, and a count that runs past the last word. -/
theorem test_witness_read_sequential :
    State.reset.seq = .idle ∧ addressInRange State.reset.cfg 126 = true ∧ (0 : Int) ≤ 0 ∧ (0 : Int) ≤ 5 ∧
      sequentialWords State.reset.cfg 126 0 = 0 ∧ sequentialWords State.reset.cfg 126 5 = 2 := by decide

/-- AddressIsCheckedAgainstTheWordCount: the four addresses where its clauses meet. -/
theorem test_witness_range :
    (enabled []).seq = .idle ∧ (enabled []).wen = true ∧ ((-1 : Int) < 0 ∨ ((enabled []).cfg.wc : Int) ≤ -1) ∧
      ((128 : Int) < 0 ∨ ((enabled []).cfg.wc : Int) ≤ 128) ∧ ((0 : Int) ≤ 0 ∧ (0 : Int) < (enabled []).cfg.wc) ∧
      ((0 : Int) ≤ 127 ∧ (127 : Int) < (enabled []).cfg.wc) := by decide

/-- DisabledEraseAndWriteAreSilentNoOps (the spec's order, a bad address), AddressFirstOrderReportsTheError, and the first
again with the other order and a good address. -/
theorem test_witness_guard_order :
    State.reset.seq = .idle ∧ State.reset.wen = false ∧ State.reset.cfg.guardOrder = .latchFirst ∧
      (let s := engine { Config.resetConfiguration with guardOrder := .addressFirst } false [];
        s.seq = .idle ∧ s.wen = false ∧ s.cfg.guardOrder = .addressFirst ∧ addressInRange s.cfg 128 = false ∧
          addressInRange s.cfg 127 = true) := by decide

/-- LatchDoesNotGuardTheOtherRequests. -/
theorem test_witness_unguarded : State.reset.seq = .idle ∧ (0 : Int) ≤ 0 := by decide

/-- RequestsAreAcceptedOnlyWhenIdle and EveryBusyStepIsOneEvent: a request in flight, and a well-formed one. -/
theorem test_witness_busy :
    (inFlight .erase (.readyWait .dly) 0 []).seq = .busy .erase (.readyWait .dly) ∧
      (Instr.readSequential 0 0).wellFormed = true := by decide

/-- NegativeCountIsRefused. -/
theorem test_witness_negative_count : (-1 : Int) < 0 := by decide

/-- OnlyEnableAndDisableChangeTheMode, ConfigurationIsImmutable, RepliesComeOnlyWithTheReturn, OutputLatchesAreNeverRead: a
step that sets the latch and returns, one that clears it, one that does neither. -/
theorem test_witness_steps :
    (∃ t, step (inFlight .enableWrite .csDeassert 0 []) = .next t) ∧
      (∃ t, step (inFlight .disableWrite .csDeassert 0 []) = .next t) ∧
      ∃ t, step (inFlight .read (.wordIn 0 .dly1) 3 []) = .next t := ⟨⟨_, rfl⟩, ⟨_, rfl⟩, ⟨_, rfl⟩⟩

/-- EveryBusyStepIsOneEvent, its idle clause: with a request and without one. -/
theorem test_witness_idle_steps :
    State.reset.seq = .idle ∧ step State.reset = .next State.reset ∧
      ∃ t, step (called [.enableWrite] .ends) = .next t := ⟨rfl, rfl, ⟨_, rfl⟩⟩

/-- DoIsSampledOnlyPerBitInAndPerPoll: a sample of a bit in, a poll, and a step that samples nothing. -/
theorem test_witness_samples :
    (∃ t, step (inFlight .read (.wordIn 0 .sample) 3 [true]) = .next t) ∧
      (∃ t, step (inFlight .erase (.readyWait .sample) 0 [true]) = .next t) ∧
      (∃ t, step State.reset = .next t) ∧ ∀ op pos, State.reset.seq ≠ .busy op pos :=
  ⟨⟨_, rfl⟩, ⟨_, rfl⟩, ⟨_, rfl⟩, fun _ _ h => by cases h⟩

/-- StepStopsOnlyOnInadmissibleRequests, both hypotheses: a queue and a repeated sequence of admitted requests; a free
host. -/
theorem test_witness_admitted :
    (∀ i rest, (called [.readSequential 0 0] .ends).requests.next = some (i, rest) → i.wellFormed = true) ∧
      Admitted (called [.write 128 (-1)] (.repeats (.readSequential 0 0) [.read (-1)])).requests ∧
      Admitted (called [] .free).requests := by
  refine ⟨fun i rest h => ?_, ⟨by decide, fun first rest h => ?_⟩, ⟨by decide, fun first rest h => nomatch h⟩⟩
  · cases h; rfl
  · cases h; decide

/-- EndlessHostIsServedForEver: a repeating host and a free one, DO stuck at one. -/
theorem test_witness_endless :
    let s : State := { called [] (.repeats .enableWrite [.erase 3]) with doIn := ⟨[], .stuck true, 0⟩ }
    s.seq = .idle ∧ Admitted s.requests ∧ Endless s.requests ∧ AlwaysReady s.doIn ∧
      Endless (called [] .free).requests := by
  have ready : ∀ j n, DoInput.nth ⟨[], .stuck true, n⟩ j = true := fun j => by
    induction j with
    | zero => exact fun _ => rfl
    | succ j ih => exact fun n => ih (n + 1)
  refine ⟨rfl, ⟨by decide, fun first rest h => ?_⟩, (fun h => nomatch h), fun j => ready j 0, (fun h => nomatch h)⟩
  cases h; decide

/-- EveryRequestReturnsWhereTheOutsideAnswersReady. -/
theorem test_witness_return :
    (enabled [false, true]).seq = .idle ∧ (Instr.erase 3).wellFormed = true ∧
      ReadyAfter (enabled [false, true]).doIn 1 ∧ LimitAllows (enabled [false, true]).cfg 1 :=
  ⟨rfl, rfl, test_witness_ready 1 _ 0, test_witness_no_limit _ rfl 1⟩

/-- EveryStepKeepsTheInvariant: a state in the middle of a word, with a step. -/
theorem test_witness_invariant :
    Inv (inFlight .read (.wordIn 0 .skHigh) 15 [true] |>.drive .sk false |>.drive .di false) ∧
      ∃ t, step (inFlight .read (.wordIn 0 .skHigh) 15 [true] |>.drive .sk false |>.drive .di false) = .next t := by
  refine ⟨⟨⟨List.cons_ne_nil _ _, rfl, (fun h => nomatch h), (fun _ => by decide), (by decide), rfl, (by decide), ?_, rfl, ?_,
    (by decide)⟩, (fun w hw => nomatch hw), rfl, rfl, rfl⟩, ⟨_, rfl⟩⟩
  · show (0 : Nat) < 2 ^ 16; decide
  · intro j _; exact BitVec.getLsbD_zero

/-- DelayCountsChangeNothingElse: two engines with different counts. -/
theorem test_witness_delays :
    SameButDelays (enabled [true]) { enabled [true] with cfg := { Config.resetConfiguration with tW := 1, tP := 9 } } :=
  ⟨rfl, rfl, rfl, rfl, rfl, rfl, rfl, rfl, rfl, rfl, rfl, rfl, rfl, rfl, rfl, rfl, rfl, rfl, rfl, rfl⟩

/-- TransientLatchesHoldNothingBetweenRequests: two idle engines with different transient latches. -/
theorem test_witness_transients :
    (enabled [true]).seq = .idle ∧
      SameBetweenRequests (enabled [true]) { enabled [true] with a := 5, v := 6, n := 7, acc := 8, i := 9, polls := 1 } :=
  ⟨rfl, rfl, rfl, rfl, rfl, rfl, rfl, rfl, rfl, rfl, rfl⟩

/-- IdleStepRunsTheNextRequest. -/
theorem test_witness_next_request : State.reset.seq = .idle := by decide

/-- PlacedWordRunsNext: a word of another address width than the engine's, one of its own, one without a frame. -/
theorem test_witness_placed :
    (∃ d rest, decode (bytesOfWord (0b1_00_11_0000 % 2 ^ 16)) = .ok (d, rest) ∧ d.aw = some 6) ∧
      (∃ d rest, decode (bytesOfWord (0b1_00_11_000000 % 2 ^ 16)) = .ok (d, rest) ∧ d.aw = some 8) ∧
      ∃ d rest, decode (bytesOfWord (0 % 2 ^ 0)) = .ok (d, rest) ∧ d.aw = none :=
  ⟨⟨_, _, rfl, rfl⟩, ⟨_, _, rfl, rfl⟩, ⟨_, _, rfl, rfl⟩⟩

/-- DecodingAnEncodedRequestGivesItBack: the largest operands the fields hold; one more does not fit. -/
theorem test_witness_encodable :
    encodable .org16 .m56 (.write 255 65535) = true ∧ encodable .org16 .m56 (.write 256 0) = false ∧
      encodable .org8 .m46 (.writeAll 255) = true ∧ encodable .org8 .m46 (.writeAll 256) = false ∧
      encodable .org8 .m86 (.readSequential 2047 65534) = true := by decide

/-- EncodingADecodedRequestGivesTheBytesBack. -/
theorem test_witness_decoded :
    (∃ d, decode [0x30, 0x01, 0x00, 0x00, 0xFF] = .ok (d, [0xFF]) ∧ d.aw = some (addressWidth .org16 .m46)) :=
  ⟨_, rfl, rfl⟩

end Sys2Proof.Tests
end

section
/-!
PROOFS. The bits of the encoder's command values (41_encoder.md R59, R60) at every position: the two codes are two-bit
fields, a shift places the field, and the mask cuts a non-negative address to its field.
-/

namespace Sys2Proof.Machine

theorem Opcode.code_lt_two_pow_two (opc : Opcode) : opc.code < 2 ^ 2 := by cases opc <;> decide

theorem SubCommand.code_lt_two_pow_two (sub : SubCommand) : sub.code < 2 ^ 2 := by cases sub <;> decide

/-- A field of `w` bits shifted to `k` shows its own bits at `k` to `k + w - 1`, and 0 elsewhere. -/
theorem testBit_shiftLeft_of_lt_two_pow {x w : Nat} (hx : x < 2 ^ w) (k j : Nat) :
    (x <<< k).testBit j = (decide (k ≤ j ∧ j < k + w) && x.testBit (j - k)) := by
  rw [Nat.testBit_shiftLeft]
  by_cases hhi : j < k + w
  · simp [hhi]
  · have hzero : x.testBit (j - k) = false :=
      Nat.testBit_lt_two_pow (hx.trans_le (Nat.pow_le_pow_right (by decide) (by omega)))
    simp [hzero]

/-- The opcode of a control frame is 00, so that only the sub-command is left of its value (30_encoding.md R45). -/
theorem encControl_value (aw : Nat) (sub : SubCommand) : (encControl aw sub).value = sub.code <<< (aw - 2) := by
  simp [encControl, Opcode.code]

theorem testBit_encControl_value {aw : Nat} (haw : 2 ≤ aw) (sub : SubCommand) (j : Nat) :
    (encControl aw sub).value.testBit j =
      (if j = aw - 1 then sub.code.testBit 1 else if j = aw - 2 then sub.code.testBit 0 else false) := by
  rw [encControl_value, testBit_shiftLeft_of_lt_two_pow sub.code_lt_two_pow_two]
  split_ifs with hhigh hlow
  · have hpos : aw - 2 ≤ j ∧ j < aw - 2 + 2 := by omega
    have hbit : j - (aw - 2) = 1 := by omega
    simp [hpos, hbit]
  · simp [hlow]
  · have hout : ¬ (aw - 2 ≤ j ∧ j < aw - 2 + 2) := by omega
    rw [decide_eq_false hout, Bool.false_and]

theorem testBit_maskInt_natCast (addr n j : Nat) :
    (maskInt (addr : Int) (2 ^ n - 1)).testBit j = (decide (j < n) && addr.testBit j) := by
  change (addr &&& (2 ^ n - 1)).testBit j = _
  rw [Nat.and_two_pow_sub_one_eq_mod, Nat.testBit_mod_two_pow]

theorem testBit_encAddressed_value (aw : Nat) (opc : Opcode) (addr j : Nat) :
    (encAddressed aw (2 ^ aw - 1) opc addr).value.testBit j =
      (if j < aw then addr.testBit j else if j < aw + 2 then opc.code.testBit (j - aw) else false) := by
  simp only [encAddressed, Nat.testBit_or, testBit_shiftLeft_of_lt_two_pow opc.code_lt_two_pow_two, testBit_maskInt_natCast]
  split_ifs with haddr hopc
  · have hbelow : ¬ aw ≤ j := by omega
    simp [haddr, hbelow]
  · have habove : aw ≤ j := by omega
    simp [haddr, hopc, habove]
  · simp [haddr, hopc]

end Sys2Proof.Machine

open Sys2Proof Sys2Proof.Machine

/-- Settles O5: the opcode is 00 and the sub-command is a two-bit field at AW - 2. -/
theorem controlFrameHoldsOnlyItsSubCommand : Obligations.ControlFrameHoldsOnlyItsSubCommand := by
  intro c sub j
  have haw : 2 ≤ c.aw := le_trans (by decide) c.aw_ge
  exact ⟨rfl, testBit_encControl_value haw sub j⟩

/-- Settles O6: the mask is all ones over AW bits, so the address and the opcode lie in disjoint fields. -/
theorem addressedFrameHoldsOpcodeAndAddress : Obligations.AddressedFrameHoldsOpcodeAndAddress := by
  intro c opc addr j
  rw [c.am_eq]
  exact ⟨rfl, testBit_encAddressed_value c.aw opc addr j⟩

end

section
/-!
PROOFS. The control requests that do not wait (43_control_ops.md R75 to R77): the bits of a control frame as the shift-out
sends them, the envelope that sends nothing but a control command, and the three requests.
-/

namespace Sys2Proof.Machine

/-- An idle engine accepts the request (20_memory.md R40). -/
theorem whenIdle_of_idle {s : State} (hs : s.seq = .idle) (t : State) : whenIdle s t = .next t := by
  simp [whenIdle, hs]

/-- A return at acceptance changes nothing but the replies. -/
theorem State.finish_of_idle {s : State} (hs : s.seq = .idle) (r : Reply) :
    s.finish r = { s with replies := s.replies ++ [r] } := by
  simp [State.finish, hs]

/-- An envelope with no word to shift in and no wait lowers CS next (42_transport.md R70). -/
theorem State.nextWord_of_nothing_left {s : State} {op : Op} {e : EnvelopeArgs} (h : s.envelope op = e)
    (hin : e.inWords = 0) (hwait : e.wait = false) (k : Nat) : s.nextWord op k = s.goto op .csDeassert := by
  simp [State.nextWord, State.afterWords, h, hin, hwait]

/-- A shift-out sends the bits of its value in wire order. -/
theorem shiftOutTrace_eq_outBits (c : Configuration) (value m : Nat) :
    shiftOutTrace c value m = outBits c (msbFirst m value) := by
  induction m with
  | zero => rfl
  | succ m ih => rw [shiftOutTrace, ih, msbFirst, outBits]

theorem msbFirst_eq_replicate {x m : Nat} (h : ∀ j, j < m → x.testBit j = false) :
    msbFirst m x = List.replicate m false := by
  induction m with
  | zero => rfl
  | succ m ih =>
    rw [msbFirst, h m (Nat.lt_succ_self m), ih fun j hj => h j (Nat.lt_succ_of_lt hj), List.replicate_succ]

/-- The last bit on the wire is the value's bit 0. -/
theorem msbFirst_getLastD (x m : Nat) (b : Bit) : (msbFirst (m + 1) x).getLastD b = x.testBit 0 := by
  induction m generalizing b with
  | zero => rfl
  | succ m ih => rw [msbFirst, List.getLastD_cons, ih]

/-- A control frame on the wire is the start bit, then the command most significant bit first (30_encoding.md R45). -/
theorem controlBits_eq_cons_msbFirst (c : Configuration) (sub : SubCommand) :
    controlBits c (sub.code.testBit 1) (sub.code.testBit 0) =
      true :: msbFirst (c.aw + 2) (encControl c.aw sub).value := by
  obtain ⟨n, hn⟩ : ∃ n, c.aw = n + 2 := ⟨c.aw - 2, by have := c.aw_ge; omega⟩
  have hbit := testBit_encControl_value (Nat.le_add_left 2 n) sub
  have hzeros : msbFirst n (encControl (n + 2) sub).value = List.replicate n false :=
    msbFirst_eq_replicate fun j hj => by rw [hbit, if_neg (by omega), if_neg (by omega)]
  have htop : n + 2 + 1 ≠ n := by omega
  simp [controlBits, hn, msbFirst, hbit, hzeros, htop, -Nat.testBit_zero]

/-- DI holds the last bit of a control frame, the command's bit 0 (42_transport.md R72). -/
theorem controlBits_getLastD (c : Configuration) (sub : SubCommand) :
    (controlBits c (sub.code.testBit 1) (sub.code.testBit 0)).getLastD false =
      (encControl c.aw sub).value.testBit 0 := by
  rw [controlBits_eq_cons_msbFirst, List.getLastD_cons, msbFirst_getLastD]

/-- What an envelope with a control command and no payload sends. -/
theorem sendTrace_control (c : Configuration) {e : EnvelopeArgs} {sub : SubCommand} (hcmd : e.cmd = encControl c.aw sub)
    (hp : e.payload = none) :
    sendTrace c e = sentBits c (controlBits c (sub.code.testBit 1) (sub.code.testBit 0)) := by
  have hlen : (encControl c.aw sub).length = c.aw + 2 := rfl
  rw [controlBits_eq_cons_msbFirst, sendTrace, hcmd, hp, hlen]
  simp [sentBits, payloadTrace, shiftOutTrace_eq_outBits, msbFirst, outBits]

/-- The envelope that sends its control command and does no more: no payload, no word in, no wait (42_transport.md R70,
70_reset_and_hazards.md R119). `CS=1` belongs to the acceptance and is not among the steps counted. -/
theorem stepN_launch_of_control_only {s : State} {op : Op} {sub : SubCommand} (hs : s.seq = .idle)
    (henv : s.envelope op = { cmd := encControl s.cfg.aw sub, payload := none, inWords := 0, wait := false })
    (hres : ∀ t : State, t.result op = .none) :
    stepN (2 + 6 * (s.cfg.aw + 3)) (s.launch op) = .next
      { s.afterFrame (controlBits s.cfg (sub.code.testBit 1) (sub.code.testBit 0)) with
        wen := wenAfter op s.wen } := by
  have hsteps : 2 + 6 * (s.cfg.aw + 3) =
      1 + 6 * (1 + (s.cfg.aw + 2)) + 6 * (((s.envelope op).payload.map Encoded.length).getD 0) + 1 := by
    simp [henv]; omega
  have htrace := sendTrace_control s.cfg (congrArg EnvelopeArgs.cmd henv) (congrArg EnvelopeArgs.payload henv)
  have hdi : lastOut (s.envelope op) = (encControl s.cfg.aw sub).value := by rw [henv]; rfl
  rw [hsteps, stepN_sending, State.nextWord_of_nothing_left
    (by exact (State.envelope_congr op rfl rfl rfl rfl).trans henv) rfl rfl, stepN_busy (State.goto_seq _ _ _)]
  refine congrArg Host.Outcome.next ?_
  ext1 <;> simp [State.advance, State.complete, State.afterFrame, hres, hs, htrace, hdi, controlBits_getLastD,
    -List.getLastD_eq_getLast?, -Nat.testBit_zero]

end Sys2Proof.Machine

open Sys2Proof Sys2Proof.Machine

/-- Settles O16: the envelope sends the control frame 11 and nothing else, and its last step sets the latch. -/
theorem enableWriteSendsItsFrameAndSetsTheLatch : Obligations.EnableWriteSendsItsFrameAndSetsTheLatch := by
  intro s hs
  exact ⟨s.launch .enableWrite, whenIdle_of_idle hs _,
    stepN_launch_of_control_only (sub := .enableWrite) hs rfl fun _ => rfl⟩

/-- Settles O17: the envelope sends the control frame 00 and nothing else, and its last step clears the latch. -/
theorem disableWriteSendsItsFrameAndClearsTheLatch : Obligations.DisableWriteSendsItsFrameAndClearsTheLatch := by
  intro s hs
  exact ⟨s.launch .disableWrite, whenIdle_of_idle hs _,
    stepN_launch_of_control_only (sub := .disableWrite) hs rfl fun _ => rfl⟩

/-- Settles O18: the acceptance is the return, and returning from idle adds the reply only. -/
theorem isWriteEnabledAnswersTheLatch : Obligations.IsWriteEnabledAnswersTheLatch := by
  intro s hs
  rw [← State.finish_of_idle hs]
  exact whenIdle_of_idle hs _

end

section
/-!
PROOFS. The whole envelope as one run (42_transport.md R70): the runs of what is sent, of the words shifted
in and of the end, joined for every request.
-/

namespace Sys2Proof.Machine

/-- `s` when the last bit of the request `op` has been sent (42_transport.md R70). -/
def State.sent (s : State) (op : Op) : State :=
  { s with
    words := [], cs := .high, sk := .low, i := 0, di := Latch.ofBit ((lastOut (s.envelope op)).testBit 0),
    trace := s.trace ++ sendTrace s.cfg (s.envelope op),
    seq := if (s.envelope op).payload = none then .busy op (.command .dly3) else .busy op (.payloadOut .dly3) }

/-- `s` when r more words have been shifted in (42_transport.md R70). -/
def State.withWords (s : State) (r : Nat) : State :=
  { s with
    acc := (shiftInWords s.cfg s.doIn r).getLastD s.acc, words := s.words ++ shiftInWords s.cfg s.doIn r,
    doIn := s.doIn.after (s.cfg.w * r), trace := s.trace ++ wordsTrace s.cfg s.doIn r }

/-- `s` after the whole envelope of the request `op`, with k failed polls where it waits (42_transport.md R70). -/
def State.afterEnvelope (s : State) (op : Op) (k : Nat) : State :=
  { s with
    seq := .idle, wen := wenAfter op s.wen, cs := .low, sk := .low,
    di := Latch.ofBit ((lastOut (s.envelope op)).testBit 0), i := 0,
    acc := (shiftInWords s.cfg s.doIn (s.envelope op).inWords).getLastD s.acc,
    words := shiftInWords s.cfg s.doIn (s.envelope op).inWords,
    polls := if (s.envelope op).wait then k else s.polls,
    doIn := s.doIn.after (s.cfg.w * (s.envelope op).inWords + if (s.envelope op).wait then k + 1 else 0),
    trace := s.trace ++ envelopeTrace s.cfg (s.envelope op) s.doIn k,
    replies := s.replies ++
      [(s.setWords (shiftInWords s.cfg s.doIn (s.envelope op).inWords)).result op] }

theorem State.result_congr {s t : State} (op : Op) (h : s.words = t.words) : s.result op = t.result op := by
  cases op <;> simp [State.result, h]

/-- From an acceptance on the machine runs the whole envelope (42_transport.md R70). `CS=1` belongs to the acceptance and
is not among the steps counted. -/
theorem stepN_envelope (s : State) (op : Op) (k : Nat)
    (hready : (s.envelope op).wait = true → ReadyAfter s.doIn k ∧ LimitAllows s.cfg k) :
    stepN (envelopeEvents s.cfg (s.envelope op) k - 1) (s.launch op) = .next (s.afterEnvelope op k) := by
  have hsteps : envelopeEvents s.cfg (s.envelope op) k - 1 =
      1 + 6 * (1 + (s.cfg.aw + 2)) + 6 * (((s.envelope op).payload.map Encoded.length).getD 0) +
        (5 * (s.cfg.w * (s.envelope op).inWords) +
          ((if (s.envelope op).wait then 2 * k + 1 else 0) + (1 + 0))) := by
    rw [envelopeEvents, State.envelope_length]; omega
  have hsent : (s.sent op).envelope op = s.envelope op := State.envelope_congr op rfl rfl rfl rfl
  have hin : ((s.sent op).withWords (s.envelope op).inWords).envelope op = s.envelope op :=
    State.envelope_congr op rfl rfl rfl rfl
  have hready' : (s.envelope op).wait = true →
      ReadyAfter ((s.sent op).withWords (s.envelope op).inWords).doIn k ∧ LimitAllows s.cfg k := fun h => by
    simpa [State.withWords, State.sent, State.envelope_wait_inWords h] using hready h
  have hwords := stepN_words op (s.envelope op).inWords 0 (s.sent op) (by rw [hsent, Nat.zero_add]) rfl rfl
    ((if (s.envelope op).wait then 2 * k + 1 else 0) + (1 + 0))
  have hend := stepN_ending ((s.sent op).withWords (s.envelope op).inWords) op k 0 (by rw [hin]; exact hready')
  rw [hin] at hend
  rw [hsteps, stepN_sending]
  refine (hwords.trans hend).trans (congrArg Host.Outcome.next ?_)
  ext1 <;> simp [State.complete, State.afterEnvelope, State.withWords, State.sent, envelopeTrace, DoInput.after_add]
  case replies => exact State.result_congr op rfl

end Sys2Proof.Machine

end

section
/-!
PROOFS. The bits of a shifted-in word (42_transport.md R65) and of an addressed frame on the wire (30_encoding.md R46).
-/

namespace Sys2Proof.Machine

theorem getLsbD_wordOfBit (b : Bit) (j : Nat) : (Word.ofBit b).getLsbD j = (decide (j = 0) && b) := by
  cases j <;> simp [Word.ofBit, BitVec.getLsbD_setWidth]

/-- The word a shift-in gives holds the samples most significant first and nothing else (42_transport.md R65 (a)). -/
theorem getLsbD_shiftInWord (d : DoInput) {len : Nat} (hlen : len ≤ 16) (j : Nat) :
    (shiftInWord d len).getLsbD j = (decide (j < len) && d.nth (len - 1 - j)) := by
  induction len generalizing d with
  | zero => simp [shiftInWord]
  | succ m ih =>
    rw [shiftInWord, BitVec.getLsbD_or, BitVec.getLsbD_shiftLeft, getLsbD_wordOfBit, ih d.next (by omega),
      DoInput.nth_next]
    rcases lt_trichotomy j m with hj | rfl | hj
    · have hidx : m - 1 - j + 1 = m + 1 - 1 - j := by omega
      simp [hj, hj.trans (Nat.lt_succ_self m), hidx]
    · simp [show j < 16 by omega]
    · simp [show ¬ j < m by omega, show ¬ j < m + 1 by omega, show j - m ≠ 0 by omega]

/-- A word shifted in fits the length of its shift-in (44_addressed_ops.md R83). -/
theorem shiftInWord_lt (d : DoInput) {len : Nat} (hlen : len ≤ 16) : (shiftInWord d len).toNat < 2 ^ len := by
  refine Nat.lt_pow_two_of_testBit _ fun j hj => ?_
  have hbit := getLsbD_shiftInWord d hlen j
  rwa [decide_eq_false (by omega), Bool.false_and] at hbit

theorem msbFirst_congr {m x y : Nat} (h : ∀ j, j < m → x.testBit j = y.testBit j) : msbFirst m x = msbFirst m y := by
  induction m with
  | zero => rfl
  | succ m ih => rw [msbFirst, msbFirst, h m (Nat.lt_succ_self m), ih fun j hj => h j (Nat.lt_succ_of_lt hj)]

/-- An addressed frame on the wire is the start bit, then the command most significant bit first (30_encoding.md R46). The
mask leaves the address bits of a non-negative address as they are. -/
theorem addressedBits_eq_cons_msbFirst (c : Configuration) (opc : Opcode) {addr : Int} (h : 0 ≤ addr) :
    addressedBits c (opc.code.testBit 1) (opc.code.testBit 0) addr =
      true :: msbFirst (c.aw + 2) (encAddressed c.aw c.am opc addr).value := by
  lift addr to Nat using h
  have hbit := testBit_encAddressed_value c.aw opc addr
  have haddr : msbFirst c.aw (encAddressed c.aw (2 ^ c.aw - 1) opc addr).value = msbFirst c.aw addr :=
    msbFirst_congr fun j hj => by rw [hbit, if_pos hj]
  simp [addressedBits, c.am_eq, msbFirst, hbit, haddr, -Nat.testBit_zero]

/-- DI holds the last bit of an addressed frame, the command's bit 0 (42_transport.md R72). -/
theorem addressedBits_getLastD (c : Configuration) (opc : Opcode) {addr : Int} (h : 0 ≤ addr) :
    (addressedBits c (opc.code.testBit 1) (opc.code.testBit 0) addr).getLastD false =
      (encAddressed c.aw c.am opc addr).value.testBit 0 := by
  rw [addressedBits_eq_cons_msbFirst c opc h, List.getLastD_cons, msbFirst_getLastD]

/-- What an envelope with an addressed command and no payload sends. -/
theorem sendTrace_addressed (c : Configuration) {e : EnvelopeArgs} {opc : Opcode} {addr : Int} (h : 0 ≤ addr)
    (hcmd : e.cmd = encAddressed c.aw c.am opc addr) (hp : e.payload = none) :
    sendTrace c e = sentBits c (addressedBits c (opc.code.testBit 1) (opc.code.testBit 0) addr) := by
  have hlen : (encAddressed c.aw c.am opc addr).length = c.aw + 2 := rfl
  rw [addressedBits_eq_cons_msbFirst c opc h, sendTrace, hcmd, hp, hlen]
  simp [sentBits, payloadTrace, shiftOutTrace_eq_outBits, msbFirst, outBits]

end Sys2Proof.Machine

end

section
/-!
PROOFS. The addressed requests (44_addressed_ops.md R80, R83): the range check, the acceptance it guards, and the
envelope of `read`.
-/

namespace Sys2Proof.Machine

theorem addressInRange_eq_true_iff (c : Configuration) (addr : Int) :
    addressInRange c addr = true ↔ 0 ≤ addr ∧ addr < (c.wc : Int) := decide_eq_true_iff

theorem addressInRange_eq_false_iff (c : Configuration) (addr : Int) :
    addressInRange c addr = false ↔ addr < 0 ∨ (c.wc : Int) ≤ addr := by
  rw [addressInRange, decide_eq_false_iff_not]; omega

theorem State.validate_of_inRange {s : State} {addr : Int} (h : addressInRange s.cfg addr = true) (body : State) :
    s.validate addr body = body := if_pos h

/-- Out of range the error is the reply of an idle engine, and no more (44_addressed_ops.md R80). -/
theorem State.validate_of_outOfRange {s : State} {addr : Int} (hs : s.seq = .idle)
    (h : addressInRange s.cfg addr = false) (body : State) :
    s.validate addr body = { s with replies := s.replies ++ [.error (.addressOutOfRange addr)] } := by
  rw [State.validate, h]
  exact s.finish_of_idle hs _

/-- With the latch set the order of the guards makes no difference (decision D7). -/
theorem State.guardAndValidate_of_enabled {s : State} (h : s.wen = true) (addr : Int) (body : State) :
    s.guardAndValidate addr body = s.validate addr body := by
  unfold State.guardAndValidate State.latchGuard
  split <;> rw [if_pos h]

theorem execRead_of_idle {s : State} (hs : s.seq = .idle) (addr : Int) :
    exec (.read addr) s = .next (s.validate addr ((s.loadA addr).launch .read)) := whenIdle_of_idle hs _

/-- The four requests with an address check its range, then touch the wire with the address loaded; `erase` and `write` do
so once the latch is set (44_addressed_ops.md R80). -/
theorem exec_of_addressed {s : State} {addr value count : Int} {i : Instr} (hs : s.seq = .idle) (hcount : 0 ≤ count)
    (hi : i = .read addr ∨ i = .readSequential addr count ∨
      (s.wen = true ∧ (i = .erase addr ∨ i = .write addr value))) :
    ∃ (t : State) (op : Op), exec i s = .next (s.validate addr (t.launch op)) ∧ t.a = addr ∧ t.replies = s.replies := by
  rcases hi with rfl | rfl | ⟨hwen, rfl | rfl⟩
  · exact ⟨s.loadA addr, .read, execRead_of_idle hs addr, rfl, rfl⟩
  · exact ⟨(s.loadA addr).loadN count.toNat, .readSequential,
      (if_pos hcount).trans (whenIdle_of_idle hs _), rfl, rfl⟩
  · refine ⟨s.loadA addr, .erase, ?_, rfl, rfl⟩
    rw [← State.guardAndValidate_of_enabled hwen]
    exact whenIdle_of_idle hs _
  · refine ⟨(s.loadA addr).loadV value, .write, ?_, rfl, rfl⟩
    rw [← State.guardAndValidate_of_enabled hwen]
    exact whenIdle_of_idle hs _

/-- A request that sends the frame `1 10 address` and shifts in n words (44_addressed_ops.md R83, R84). `CS=1` belongs to
the acceptance and is not among the steps counted. -/
theorem stepN_launch_of_read {s : State} {op : Op} {n : Nat} (hs : s.seq = .idle) (ha : 0 ≤ s.a)
    (henv : s.envelope op =
      { cmd := encAddressed s.cfg.aw s.cfg.am .read s.a, payload := none, inWords := n, wait := false })
    (hwen : wenAfter op s.wen = s.wen) :
    stepN (2 + 6 * (s.cfg.aw + 3) + 5 * s.cfg.w * n) (s.launch op) = .next
      (s.afterRead (addressedBits s.cfg true false s.a) n
        ((s.setWords (shiftInWords s.cfg s.doIn n)).result op)) := by
  have hin : (s.envelope op).inWords = n := congrArg EnvelopeArgs.inWords henv
  have hwait : (s.envelope op).wait = false := congrArg EnvelopeArgs.wait henv
  have hp : (s.envelope op).payload = none := congrArg EnvelopeArgs.payload henv
  have htrace : sendTrace s.cfg (s.envelope op) = sentBits s.cfg (addressedBits s.cfg true false s.a) :=
    sendTrace_addressed (opc := .read) s.cfg ha (congrArg EnvelopeArgs.cmd henv) hp
  have hdi : (lastOut (s.envelope op)).testBit 0 = (addressedBits s.cfg true false s.a).getLastD false := by
    rw [henv]; exact (addressedBits_getLastD s.cfg .read ha).symm
  have hsteps : 2 + 6 * (s.cfg.aw + 3) + 5 * s.cfg.w * n = envelopeEvents s.cfg (s.envelope op) 0 - 1 := by
    simp [envelopeEvents, hp, hin, hwait, Nat.mul_assoc]; omega
  rw [hsteps, stepN_envelope s op 0 (by simp [hwait])]
  refine congrArg Host.Outcome.next ?_
  ext1 <;> simp [State.afterEnvelope, State.afterRead, envelopeTrace, hs, hin, hwait, hwen, htrace, hdi,
    -List.getLastD_eq_getLast?, -Nat.testBit_zero]

end Sys2Proof.Machine

open Sys2Proof Sys2Proof.Machine

/-- Settles O23: the envelope of `read` sends its frame and shifts in one word, which holds the W samples and no other
bit. -/
theorem readShiftsInOneWord : Obligations.ReadShiftsInOneWord := by
  intro s addr hs
  refine ⟨fun hin => ?_, fun hout => ?_⟩
  · have haddr : 0 ≤ addr := ((addressInRange_eq_true_iff _ _).mp hin).1
    have hrun := stepN_launch_of_read (s := s.loadA addr) (op := .read) (n := 1) hs haddr rfl rfl
    rw [Nat.mul_one] at hrun
    refine ⟨(s.loadA addr).launch .read, shiftInWord s.doIn s.cfg.w, ?_, hrun, shiftInWord_lt _ s.cfg.w_le, ?_⟩
    · rw [execRead_of_idle hs, State.validate_of_inRange hin]
    · intro j hj
      have hidx : s.cfg.w - 1 - (s.cfg.w - 1 - j) = j := by omega
      have hlow : s.cfg.w - 1 - j < s.cfg.w := by omega
      rw [getLsbD_shiftInWord _ s.cfg.w_le, hidx, decide_eq_true hlow, Bool.true_and]
  · rw [execRead_of_idle hs, State.validate_of_outOfRange hs hout]

/-- Settles O27: each of the four requests runs the range check on an idle engine, and its body is an acceptance. -/
theorem addressIsCheckedAgainstTheWordCount : Obligations.AddressIsCheckedAgainstTheWordCount := by
  intro s addr value count i hs hcount hi
  obtain ⟨t, op, hexec, ha, hreplies⟩ := exec_of_addressed hs hcount hi
  refine ⟨fun hout => ?_, fun hin => ⟨t.launch op, ?_, hreplies, ?_, ha⟩⟩
  · rw [hexec, State.validate_of_outOfRange hs ((addressInRange_eq_false_iff _ _).mpr hout)]
  · rw [hexec, State.validate_of_inRange ((addressInRange_eq_true_iff _ _).mpr hin)]
  · simp [State.launch]

end

section
/-!
PROOFS. The one fatal error (60_exceptions.md R88): which construction arguments are valid, and that no request and no
step ends in a fault.
-/

namespace Sys2Proof.Machine

theorem organizationOf_eq_none_iff (org : Int) : organizationOf org = none ↔ org ∉ [8, 16] := by
  unfold organizationOf
  split_ifs <;> simp [*]

theorem modelOf_eq_none_iff (model : Int) : modelOf model = none ↔ model ∉ [46, 56, 66, 76, 86] := by
  unfold modelOf
  split_ifs <;> simp [*]

/-- A bad argument leaves no engine but the error, which names one of the two arguments (60_exceptions.md R88). -/
theorem construct_of_bad_argument {model org : Int} (h : model ∉ [46, 56, 66, 76, 86] ∨ org ∉ [8, 16])
    (tCS tW tR tP : Nat) :
    ∃ info, (info = model ∨ info = org) ∧
      construct model org tCS tW tR tP = .fault (.noEngine (.configurationError info)) := by
  rw [← modelOf_eq_none_iff, ← organizationOf_eq_none_iff] at h
  cases horg : organizationOf org with
  | none => exact ⟨org, .inr rfl, by simp [construct, validateArguments, horg]⟩
  | some o =>
    have hmodel : modelOf model = none := h.resolve_right (by simp [horg])
    exact ⟨model, .inl rfl, by simp [construct, validateArguments, horg, hmodel]⟩

theorem construct_of_valid_arguments {model org : Int} (hmodel : model ∈ [46, 56, 66, 76, 86]) (horg : org ∈ [8, 16])
    (tCS tW tR tP : Nat) : ∃ s, construct model org tCS tW tR tP = .next s := by
  obtain ⟨m, hm⟩ := Option.ne_none_iff_exists'.mp fun h => (modelOf_eq_none_iff model).mp h hmodel
  obtain ⟨o, ho⟩ := Option.ne_none_iff_exists'.mp fun h => (organizationOf_eq_none_iff org).mp h horg
  simp [construct, validateArguments, hm, ho]

theorem whenIdle_ne_fault (s t : State) (e : Fault) : whenIdle s t ≠ .fault e := by
  unfold whenIdle
  split <;> simp

/-- A request is accepted or refused; an error it ends with is its reply and no fault (60_exceptions.md R94). -/
theorem exec_ne_fault (i : Instr) (s : State) (e : Fault) : exec i s ≠ .fault e := by
  cases i with
  | readSequential addr count =>
    change execReadSequential addr count s ≠ .fault e
    unfold execReadSequential
    split
    · exact whenIdle_ne_fault _ _ e
    · simp
  | _ => exact whenIdle_ne_fault _ _ e

theorem step_ne_fault (s : State) (e : Fault) : step s ≠ .fault e := by
  unfold step
  split
  · simp
  · split
    · simp
    · exact exec_ne_fault _ _ e

end Sys2Proof.Machine

open Sys2Proof Sys2Proof.Machine

/-- Settles O3: the validation passes exactly on the ten pairs of arguments, and no arm of a step is a fault. -/
theorem constructionFailsExactlyOnBadArguments : Obligations.ConstructionFailsExactlyOnBadArguments :=
  ⟨fun _ _ tCS tW tR tP => ⟨fun hbad => construct_of_bad_argument hbad tCS tW tR tP,
    fun ⟨hmodel, horg⟩ => construct_of_valid_arguments hmodel horg tCS tW tR tP⟩, step_ne_fault⟩

end

section
/-!
PROOFS. The ready-wait of the baseline against an outside that answers zeros for ever (60_exceptions.md R99): one poll
after the other, the state after any number of steps written out.
-/

namespace Sys2Proof.Machine

/-- The position in the ready-wait n steps after `p`, as long as every poll fails (42_transport.md R66). -/
def phaseAfterPolls : PollPhase → Nat → PollPhase
  | p, 0 => p
  | .sample, n + 1 => phaseAfterPolls .dly n
  | .dly, n + 1 => phaseAfterPolls .sample n

/-- The first n events of a ready-wait from `p` in which every poll fails (42_transport.md R66). -/
def failingPollEvents (c : Configuration) : PollPhase → Nat → List Event
  | _, 0 => []
  | .sample, n + 1 => .smp false :: failingPollEvents c .dly n
  | .dly, n + 1 => .dly .p c.tP :: failingPollEvents c .sample n

theorem failingPollEvents_length (c : Configuration) (p : PollPhase) (n : Nat) :
    (failingPollEvents c p n).length = n := by
  induction n generalizing p with
  | zero => rfl
  | succ n ih => cases p <;> simp [failingPollEvents, ih]

/-- From a sample on, two events are one failed poll. -/
theorem failingPollEvents_sample_two_mul (c : Configuration) (m : Nat) :
    failingPollEvents c .sample (2 * m) = failedPolls c m := by
  induction m with
  | zero => rfl
  | succ m ih => simp [Nat.mul_succ, failingPollEvents, failedPolls, ih]

/-- In the baseline a poll that reads 0 leads to the delay (42_transport.md R66). -/
theorem State.advance_sample_of_zero {s : State} (op : Op) (hl : s.cfg.readyLimit = none) (hb : s.doIn.bit = false) :
    s.advance op (.readyWait .sample) = s.sample.goto op (.readyWait .dly) := by
  simp [State.advance, State.pollTick, hb, State.pollFailed_below (s := s.sample) op (by simp [hl])]

/-- Without a limit and without a one, a ready-wait never ends; only the poll count, the outside of DO and the trace go on
(60_exceptions.md R99). -/
theorem stepN_readyWait_of_neverReady {s : State} {op : Op} {p : PollPhase} (h : s.seq = .busy op (.readyWait p))
    (hl : s.cfg.readyLimit = none) (hz : NeverReady s.doIn) (n : Nat) :
    ∃ polls doIn, stepN n s = .next { s with
      seq := .busy op (.readyWait (phaseAfterPolls p n)), polls := polls, doIn := doIn,
      trace := s.trace ++ failingPollEvents s.cfg p n } := by
  induction n generalizing s p with
  | zero =>
    refine ⟨s.polls, s.doIn, congrArg Host.Outcome.next ?_⟩
    ext1 <;> simp [h, phaseAfterPolls, failingPollEvents]
  | succ n ih =>
    rw [stepN_busy h]
    cases p with
    | sample =>
      have hb : s.doIn.bit = false := hz 0
      rw [State.advance_sample_of_zero op hl hb]
      obtain ⟨polls, doIn, hrun⟩ :=
        ih (s := s.sample.goto op (.readyWait .dly)) rfl hl fun j => hz (j + 1)
      refine ⟨polls, doIn, hrun.trans (congrArg Host.Outcome.next ?_)⟩
      ext1 <;> simp [phaseAfterPolls, failingPollEvents, hb]
    | dly =>
      obtain ⟨polls, doIn, hrun⟩ := ih (s := s.advance op (.readyWait .dly)) rfl hl hz
      refine ⟨polls, doIn, hrun.trans (congrArg Host.Outcome.next ?_)⟩
      ext1 <;> simp [State.advance, State.pollTick, phaseAfterPolls, failingPollEvents, Configuration.count]

end Sys2Proof.Machine

open Sys2Proof Sys2Proof.Machine

/-- Settles O13: the state after n steps is the one at the start but for the poll count, the outside of DO and n more
events. -/
theorem readyWaitHangsWithoutAOne : Obligations.ReadyWaitHangsWithoutAOne := by
  intro s op p hseq hlimit hzeros n
  obtain ⟨polls, doIn, hrun⟩ := stepN_readyWait_of_neverReady hseq hlimit hzeros n
  refine ⟨_, phaseAfterPolls p n, hrun, rfl, rfl, rfl, rfl, rfl, rfl, rfl, ?_, ?_⟩
  · rw [List.length_append, failingPollEvents_length]
  · rintro m rfl rfl
    rw [failingPollEvents_sample_two_mul]

end

section
/-!
PROOFS. What the latch guards (60_exceptions.md R97) and what it does not (R98), at the acceptance of each request.
-/

namespace Sys2Proof.Machine

/-- With the latch clear the guard ends the request with none (60_exceptions.md R97). -/
theorem State.latchGuard_of_disabled {s : State} (hs : s.seq = .idle) (hwen : s.wen = false) (body : State) :
    s.latchGuard body = { s with replies := s.replies ++ [.none] } := by
  rw [← State.finish_of_idle hs]
  exact if_neg (by simp [hwen])

/-- With the latch clear `erase` and `write` end at the guard, unless a bad address is reported before it (decision D7). -/
theorem State.guardAndValidate_of_disabled {s : State} {addr : Int} (hs : s.seq = .idle) (hwen : s.wen = false)
    (h : s.cfg.guardOrder = .latchFirst ∨ addressInRange s.cfg addr = true) (body : State) :
    s.guardAndValidate addr body = { s with replies := s.replies ++ [.none] } := by
  unfold State.guardAndValidate
  split
  · exact State.latchGuard_of_disabled hs hwen _
  · rename_i hfirst
    have hin : addressInRange s.cfg addr = true := h.resolve_left (by simp [hfirst])
    rw [State.validate_of_inRange hin]
    exact State.latchGuard_of_disabled hs hwen _

/-- The range check does not read the latch. -/
theorem State.validate_setWen (s : State) (b : Bool) (addr : Int) (body : State) :
    (s.setWen b).validate addr (body.setWen b) = (s.validate addr body).setWen b := by
  unfold State.validate
  rw [State.setWen_cfg, apply_ite (State.setWen · b)]
  rfl

/-- A request whose acceptance carries a changed latch along is accepted with either value of it (60_exceptions.md R98). -/
theorem whenIdle_setWen {s t t' : State} {b : Bool} (hs : s.seq = .idle) (ht : t' = t.setWen b) :
    ∃ u, whenIdle s t = .next u ∧ whenIdle (s.setWen b) t' = .next (u.setWen b) :=
  ⟨t, whenIdle_of_idle hs t, ht ▸ whenIdle_of_idle (s := s.setWen b) hs t'⟩

end Sys2Proof.Machine

open Sys2Proof Sys2Proof.Machine

/-- Settles O28: each of the four requests is accepted by the latch guard alone, and a return from idle adds the reply
only. -/
theorem disabledEraseAndWriteAreSilentNoOps : Obligations.DisabledEraseAndWriteAreSilentNoOps := by
  rintro s addr value i hs hwen (rfl | rfl | ⟨horder, rfl | rfl⟩)
  · rw [← State.latchGuard_of_disabled hs hwen (s.launch .eraseAll)]
    exact whenIdle_of_idle hs _
  · rw [← State.latchGuard_of_disabled hs hwen ((s.loadV value).launch .writeAll)]
    exact whenIdle_of_idle hs _
  · rw [← State.guardAndValidate_of_disabled hs hwen horder ((s.loadA addr).launch .erase)]
    exact whenIdle_of_idle hs _
  · rw [← State.guardAndValidate_of_disabled hs hwen horder (((s.loadA addr).loadV value).launch .write)]
    exact whenIdle_of_idle hs _

/-- Settles O30: acceptance of each request carries the latch along unread: neither `CS=1` nor the range check looks
at it. -/
theorem latchDoesNotGuardTheOtherRequests : Obligations.LatchDoesNotGuardTheOtherRequests := by
  intro s addr count i b hs hcount
  refine ⟨?_, ?_⟩
  · rintro (rfl | rfl | rfl | rfl)
    · exact whenIdle_setWen (t := s.launch .enableWrite) hs rfl
    · exact whenIdle_setWen (t := s.launch .disableWrite) hs rfl
    · exact whenIdle_setWen hs (s.validate_setWen b addr ((s.loadA addr).launch .read))
    · have hexec (t : State) : exec (.readSequential addr count) t =
          whenIdle t (t.validate addr (((t.loadA addr).loadN count.toNat).launch .readSequential)) := if_pos hcount
      rw [hexec, hexec]
      exact whenIdle_setWen hs (s.validate_setWen b addr (((s.loadA addr).loadN count.toNat).launch .readSequential))
  · rw [← State.finish_of_idle (s := { s with wen := b }) hs]
    exact whenIdle_of_idle (s := { s with wen := b }) hs _

end

section
/-!
PROOFS. What a step can do (10_state.md R17), said once: the positions of the envelope with the three shift-outs as one
case, the step of a request in flight at a position, the acceptance of a request, and the step from any state.
-/

namespace Sys2Proof.Machine

/-- The positions of the envelope, the shift-outs of the three fields as one case (42_transport.md R70). -/
theorem Pos.casesByField {motive : Pos → Prop} (csAssert : motive .csAssert)
    (out : ∀ (f : OutField) (p : OutPhase), motive (f.pos p)) (wordIn : ∀ k p, motive (.wordIn k p))
    (readyWait : ∀ p, motive (.readyWait p)) (csDeassert : motive .csDeassert)
    (timeoutDeassert : ∀ limit, motive (.timeoutDeassert limit)) (pos : Pos) : motive pos := by
  cases pos with
  | csAssert => exact csAssert
  | start p => exact out .start p
  | command p => exact out .command p
  | payloadOut p => exact out .payload p
  | wordIn k p => exact wordIn k p
  | readyWait p => exact readyWait p
  | csDeassert => exact csDeassert
  | timeoutDeassert limit => exact timeoutDeassert limit

/-- The two positions whose step ends the request (42_transport.md R68, R69). -/
def Pos.ends : Pos → Bool
  | .csDeassert => true
  | .timeoutDeassert _ => true
  | _ => false

theorem Pos.eq_of_ends {pos : Pos} (h : pos.ends = true) :
    pos = .csDeassert ∨ ∃ limit, pos = .timeoutDeassert limit := by
  cases pos with
  | csDeassert => exact .inl rfl
  | timeoutDeassert limit => exact .inr ⟨limit, rfl⟩
  | _ => cases h

/-- The two positions whose step samples DO (20_memory.md R31). -/
def Pos.samples : Pos → Bool
  | .wordIn _ .sample => true
  | .readyWait .sample => true
  | _ => false

@[simp] theorem OutField.pos_samples (f : OutField) (p : OutPhase) : (f.pos p).samples = false := by cases f <;> rfl

/-- The one event of a step that does not end the request: SK or DI is driven, a delay passes, or DO is sampled. The
flag says whether it is a sample. -/
inductive Emits (s : State) : Bool → State → Prop
  | drive (l : Line) (b : Bit) (hl : l ≠ .cs) : Emits s false (s.drive l b)
  | delay (k : Budget) : Emits s false (s.delay k)
  | sample : Emits s true s.sample

/-- The result list after a step at `pos`: the accumulator is appended where a word is complete
(42_transport.md R70). -/
def WordsAfter (s : State) (pos : Pos) (words : List Word) : Prop :=
  words = s.words ∨ (∃ k, pos = .wordIn k .dly2) ∧ words = s.words ++ [s.acc]

/-- `t` is `s` after one event of the request `op` at `pos` and before a later one; besides what the event writes, only
the bit index, the accumulator, the result list and the poll count may change. -/
def GoesOn (op : Op) (pos : Pos) (s t : State) : Prop :=
  ∃ u acc i words polls q, Emits s pos.samples u ∧ WordsAfter s pos words ∧
    t = { u with acc := acc, i := i, words := words, polls := polls, seq := .busy op q }

/-- What follows a field's shift-out is a later position of the same request. -/
theorem OutField.follow_frame (f : OutField) (op : Op) (s : State) :
    ∃ acc i polls pos, f.follow op s = { s with acc := acc, i := i, polls := polls, seq := .busy op pos } := by
  cases f with
  | start => exact ⟨_, _, _, _, rfl⟩
  | command => exact s.afterCommand_frame op
  | payload => exact s.nextWord_frame op 0

theorem State.advance_outField_goesOn (s : State) (op : Op) (f : OutField) (p : OutPhase) :
    GoesOn op (f.pos p) s (s.advance op (f.pos p)) := by
  rw [State.advance_outField, GoesOn, OutField.pos_samples]
  cases p with
  | di => exact ⟨_, _, _, _, _, _, .drive .di _ (by decide), .inl rfl, rfl⟩
  | dly1 => exact ⟨_, _, _, _, _, _, .delay .w, .inl rfl, rfl⟩
  | skHigh => exact ⟨_, _, _, _, _, _, .drive .sk true (by decide), .inl rfl, rfl⟩
  | dly2 => exact ⟨_, _, _, _, _, _, .delay .w, .inl rfl, rfl⟩
  | skLow => exact ⟨_, _, _, _, _, _, .drive .sk false (by decide), .inl rfl, rfl⟩
  | dly3 =>
    obtain ⟨acc, i, polls, q, hf⟩ := f.follow_frame op (s.delay .w)
    simp only [State.shiftOutTick, hf]
    split <;> exact ⟨_, _, _, _, _, _, .delay .w, .inl rfl, rfl⟩

theorem State.advance_wordIn_goesOn (s : State) (op : Op) (k : Nat) (p : InPhase) :
    GoesOn op (.wordIn k p) s (s.advance op (.wordIn k p)) := by
  cases p with
  | skHigh => exact ⟨_, _, _, _, _, _, .drive .sk true (by decide), .inl rfl, rfl⟩
  | dly1 => exact ⟨_, _, _, _, _, _, .delay .r, .inl rfl, rfl⟩
  | sample => exact ⟨_, _, _, _, _, _, .sample, .inl rfl, rfl⟩
  | skLow => exact ⟨_, _, _, _, _, _, .drive .sk false (by decide), .inl rfl, rfl⟩
  | dly2 =>
    obtain ⟨acc, i, polls, q, hf⟩ := State.nextWord_frame ((s.setWords (s.words ++ [s.acc])).delay .r) op (k + 1)
    simp only [State.advance, State.shiftInTick, hf]
    split
    · exact ⟨_, _, _, _, _, _, .delay .r, .inr ⟨⟨k, rfl⟩, rfl⟩, rfl⟩
    · exact ⟨_, _, _, _, _, _, .delay .r, .inl rfl, rfl⟩

/-- What a step at a position that does not end the request can do, said once. -/
theorem State.advance_goesOn (s : State) (op : Op) {pos : Pos} (h : pos.ends = false) :
    GoesOn op pos s (s.advance op pos) := by
  cases pos using Pos.casesByField with
  | csAssert => exact ⟨_, _, _, _, _, _, .delay .cs, .inl rfl, rfl⟩
  | out f p => exact s.advance_outField_goesOn op f p
  | wordIn k p => exact s.advance_wordIn_goesOn op k p
  | readyWait p =>
    cases p with
    | sample =>
      simp only [State.advance, State.pollTick, State.pollFailed]
      (repeat' split) <;> exact ⟨_, _, _, _, _, _, .sample, .inl rfl, rfl⟩
    | dly => exact ⟨_, _, _, _, _, _, .delay .p, .inl rfl, rfl⟩
  | csDeassert => cases h
  | timeoutDeassert limit => cases h

/-- A step at a position that does not end the request changes neither WEN nor CS nor the replies. -/
theorem State.advance_continues (s : State) (op : Op) {pos : Pos} (h : pos.ends = false) :
    (s.advance op pos).wen = s.wen ∧ (s.advance op pos).cs = s.cs ∧ (s.advance op pos).replies = s.replies ∧
      ∃ q, (s.advance op pos).seq = .busy op q := by
  obtain ⟨u, acc, i, words, polls, q, hu, -, ht⟩ := s.advance_goesOn op h
  rw [ht]
  generalize pos.samples = sampled at hu
  cases hu with
  | drive l b hl =>
    cases l with
    | cs => exact absurd rfl hl
    | sk => exact ⟨rfl, rfl, rfl, q, rfl⟩
    | di => exact ⟨rfl, rfl, rfl, q, rfl⟩
  | delay k => exact ⟨rfl, rfl, rfl, q, rfl⟩
  | sample => exact ⟨rfl, rfl, rfl, q, rfl⟩

theorem Pos.ends_eq_false_of_samples {pos : Pos} (h : pos.samples = true) : pos.ends = false := by
  cases pos with
  | csDeassert => cases h
  | timeoutDeassert limit => cases h
  | _ => rfl

/-- A step at a position that samples takes one bit from the outside, and its event carries it (20_memory.md R31). -/
theorem State.advance_samples (s : State) (op : Op) {pos : Pos} (h : pos.samples = true) :
    (s.advance op pos).doIn = s.doIn.next ∧ (s.advance op pos).trace = s.trace ++ [.smp s.doIn.bit] := by
  obtain ⟨u, acc, i, words, polls, q, hu, -, ht⟩ := s.advance_goesOn op (Pos.ends_eq_false_of_samples h)
  rw [ht]
  rw [h] at hu
  cases hu
  exact ⟨rfl, rfl⟩

/-- A step at any other position takes none, and its event is no sample. -/
theorem State.advance_unsampled (s : State) (op : Op) {pos : Pos} (h : pos.samples = false) :
    (s.advance op pos).doIn = s.doIn ∧
      ∃ e, (s.advance op pos).trace = s.trace ++ [e] ∧ ∀ b, e ≠ .smp b := by
  cases hends : pos.ends with
  | true =>
    obtain rfl | ⟨limit, rfl⟩ := Pos.eq_of_ends hends
    · exact ⟨rfl, _, rfl, nofun⟩
    · exact ⟨rfl, _, rfl, nofun⟩
  | false =>
    obtain ⟨u, acc, i, words, polls, q, hu, -, ht⟩ := s.advance_goesOn op hends
    rw [ht]
    rw [h] at hu
    cases hu with
    | drive l b hl => exact ⟨by simp, .drive l b, by simp, nofun⟩
    | delay k => exact ⟨rfl, _, rfl, nofun⟩

/-- A step keeps the result list, but for the accumulator appended where a word is complete. -/
theorem State.advance_words (s : State) (op : Op) (pos : Pos) : WordsAfter s pos (s.advance op pos).words := by
  cases hends : pos.ends with
  | true =>
    obtain rfl | ⟨limit, rfl⟩ := Pos.eq_of_ends hends <;> exact .inl rfl
  | false =>
    obtain ⟨u, acc, i, words, polls, q, -, hwords, ht⟩ := s.advance_goesOn op hends
    rw [ht]
    exact hwords

theorem Pos.samples_eq_true_iff (pos : Pos) :
    pos.samples = true ↔ (∃ k, pos = .wordIn k .sample) ∨ pos = .readyWait .sample := by
  cases pos with
  | wordIn k p => cases p <;> simp [Pos.samples]
  | readyWait p => cases p <;> simp [Pos.samples]
  | _ => simp [Pos.samples]

/-- A step at a position that ends the request answers the host and leaves the engine idle. -/
theorem State.advance_ends (s : State) (op : Op) {pos : Pos} (h : pos.ends = true) :
    (s.advance op pos).seq = .idle ∧ ∃ r, (s.advance op pos).replies = s.replies ++ [r] := by
  obtain rfl | ⟨limit, rfl⟩ := Pos.eq_of_ends h <;> exact ⟨rfl, _, rfl⟩

/-- A request answers a next state only from idle, and then the state its guards leave. -/
theorem whenIdle_next {s t u : State} (h : whenIdle s t = .next u) : s.seq = .idle ∧ u = t := by
  unfold whenIdle at h
  split at h
  next hs => cases h; exact ⟨hs, rfl⟩
  next => cases h

theorem State.latchGuard_cases (s body : State) :
    s.latchGuard body = s.finish .none ∨ s.latchGuard body = body ∧ s.wen = true := by
  cases hwen : s.wen <;> simp [State.latchGuard, hwen]

theorem State.validate_cases (s : State) (addr : Int) (body : State) :
    s.validate addr body = s.raise (.addressOutOfRange addr) ∨
      s.validate addr body = body ∧ addressInRange s.cfg addr = true := by
  cases hin : addressInRange s.cfg addr <;> simp [State.validate, hin]

/-- In either order of the guards a request ends at one of them, or passes both (decision D7). -/
theorem State.guardAndValidate_cases (s : State) (addr : Int) (body : State) :
    (∃ r, s.guardAndValidate addr body = s.finish r) ∨
      s.guardAndValidate addr body = body ∧ s.wen = true ∧ addressInRange s.cfg addr = true := by
  unfold State.guardAndValidate
  split
  · obtain hend | ⟨hgo, hwen⟩ := s.latchGuard_cases (s.validate addr body)
    · exact .inl ⟨_, hend⟩
    · obtain hend | ⟨hgo', hin⟩ := s.validate_cases addr body
      · exact .inl ⟨_, hgo.trans hend⟩
      · exact .inr ⟨hgo.trans hgo', hwen, hin⟩
  · obtain hend | ⟨hgo, hin⟩ := s.validate_cases addr (s.latchGuard body)
    · exact .inl ⟨_, hend⟩
    · obtain hend | ⟨hgo', hwen⟩ := s.latchGuard_cases body
      · exact .inl ⟨_, hgo.trans hend⟩
      · exact .inr ⟨hgo.trans hgo', hwen, hin⟩

/-- `s` with the three operand latches loaded (10_state.md R15). -/
def State.loaded (s : State) (addr value : Int) (count : Nat) : State := ((s.loadA addr).loadV value).loadN count

/-- What an accepted request does (43_control_ops.md R74): it ends at once, or it loads its operands and drives CS high, and
then its guards have passed. -/
theorem exec_next_cases {i : Instr} {s t : State} (h : exec i s = .next t) :
    s.seq = .idle ∧ ((∃ r, t = s.finish r) ∨
      ∃ op addr value count, t = (s.loaded addr value count).launch op ∧ (op.guarded = true → s.wen = true) ∧
        (op.addressed = true → addressInRange s.cfg addr = true)) := by
  cases i with
  | enableWrite =>
    obtain ⟨hs, rfl⟩ := whenIdle_next h
    exact ⟨hs, .inr ⟨.enableWrite, s.a, s.v, s.n, rfl, nofun, nofun⟩⟩
  | disableWrite =>
    obtain ⟨hs, rfl⟩ := whenIdle_next h
    exact ⟨hs, .inr ⟨.disableWrite, s.a, s.v, s.n, rfl, nofun, nofun⟩⟩
  | isWriteEnabled =>
    obtain ⟨hs, rfl⟩ := whenIdle_next h
    exact ⟨hs, .inl ⟨_, rfl⟩⟩
  | eraseAll =>
    obtain ⟨hs, rfl⟩ := whenIdle_next h
    obtain hend | ⟨hgo, hwen⟩ := s.latchGuard_cases (s.launch .eraseAll)
    · exact ⟨hs, .inl ⟨_, hend⟩⟩
    · exact ⟨hs, .inr ⟨.eraseAll, s.a, s.v, s.n, hgo, fun _ => hwen, nofun⟩⟩
  | writeAll value =>
    obtain ⟨hs, rfl⟩ := whenIdle_next h
    obtain hend | ⟨hgo, hwen⟩ := s.latchGuard_cases ((s.loadV value).launch .writeAll)
    · exact ⟨hs, .inl ⟨_, hend⟩⟩
    · exact ⟨hs, .inr ⟨.writeAll, s.a, value, s.n, hgo, fun _ => hwen, nofun⟩⟩
  | erase addr =>
    obtain ⟨hs, rfl⟩ := whenIdle_next h
    obtain hend | ⟨hgo, hwen, hin⟩ := s.guardAndValidate_cases addr ((s.loadA addr).launch .erase)
    · exact ⟨hs, .inl hend⟩
    · exact ⟨hs, .inr ⟨.erase, addr, s.v, s.n, hgo, fun _ => hwen, fun _ => hin⟩⟩
  | write addr value =>
    obtain ⟨hs, rfl⟩ := whenIdle_next h
    obtain hend | ⟨hgo, hwen, hin⟩ := s.guardAndValidate_cases addr (((s.loadA addr).loadV value).launch .write)
    · exact ⟨hs, .inl hend⟩
    · exact ⟨hs, .inr ⟨.write, addr, value, s.n, hgo, fun _ => hwen, fun _ => hin⟩⟩
  | read addr =>
    obtain ⟨hs, rfl⟩ := whenIdle_next h
    obtain hend | ⟨hgo, hin⟩ := s.validate_cases addr ((s.loadA addr).launch .read)
    · exact ⟨hs, .inl ⟨_, hend⟩⟩
    · exact ⟨hs, .inr ⟨.read, addr, s.v, s.n, hgo, nofun, fun _ => hin⟩⟩
  | readSequential addr count =>
    change execReadSequential addr count s = .next t at h
    unfold execReadSequential at h
    split at h
    next =>
      obtain ⟨hs, rfl⟩ := whenIdle_next h
      obtain hend | ⟨hgo, hin⟩ := s.validate_cases addr (((s.loadA addr).loadN count.toNat).launch .readSequential)
      · exact ⟨hs, .inl ⟨_, hend⟩⟩
      · exact ⟨hs, .inr ⟨.readSequential, addr, s.v, count.toNat, hgo, nofun, fun _ => hin⟩⟩
    next => cases h

/-- A step from any state: the next event of the request in flight, or the host's next request, or nothing. -/
theorem step_cases {s t : State} (h : step s = .next t) :
    (∃ op pos, s.seq = .busy op pos ∧ t = s.advance op pos) ∨
      (s.seq = .idle ∧ s.requests.next = none ∧ t = s) ∨
      (s.seq = .idle ∧ ∃ i rest, s.requests.next = some (i, rest) ∧ exec i { s with requests := rest } = .next t) := by
  unfold step at h
  split at h
  next op pos hseq => cases h; exact .inl ⟨op, pos, hseq, rfl⟩
  next hseq =>
    split at h
    next hn => cases h; exact .inr (.inl ⟨hseq, hn, rfl⟩)
    next i rest hn => exact .inr (.inr ⟨hseq, i, rest, hn, h⟩)

theorem step_idle_none {s : State} (hs : s.seq = .idle) (hn : s.requests.next = none) : step s = .next s := by
  simp [step, hs, hn]

theorem step_idle_some {s : State} {i : Instr} {rest : HostCalls} (hs : s.seq = .idle)
    (hn : s.requests.next = some (i, rest)) : step s = exec i { s with requests := rest } := by
  simp [step, hs, hn]

end Sys2Proof.Machine

open Sys2Proof Sys2Proof.Machine

/-- Settles O31: every meaning asks `whenIdle`, and the step of a request in flight keeps the host's requests. -/
theorem requestsAreAcceptedOnlyWhenIdle : Obligations.RequestsAreAcceptedOnlyWhenIdle := by
  intro s op pos hs
  have hbusy (t : State) : whenIdle s t = .refused .requestWhileBusy := by simp [whenIdle, hs]
  obtain ⟨-, -, -, -, hrequests, -⟩ := s.advance_frame op pos
  refine ⟨fun i hi => ?_, s.advance op pos, step_busy hs, hrequests⟩
  cases i with
  | readSequential addr count =>
    have hcount : 0 ≤ count := of_decide_eq_true hi
    exact (if_pos hcount).trans (hbusy _)
  | _ => exact hbusy _

/-- Settles O33: WEN is written at the CS deassertion only, and there by two requests. -/
theorem onlyEnableAndDisableChangeTheMode : Obligations.OnlyEnableAndDisableChangeTheMode := by
  intro s t h
  obtain ⟨op, pos, hs, rfl⟩ | ⟨hs, -, rfl⟩ | ⟨hs, i, rest, -, he⟩ := step_cases h
  · by_cases hpos : pos = .csDeassert
    · subst hpos
      cases op with
      | enableWrite => exact .inl ⟨rfl, hs⟩
      | disableWrite => exact .inr (.inl ⟨rfl, hs⟩)
      | _ => exact .inr (.inr ⟨rfl, by simp [hs]⟩)
    · have hwen : (s.advance op pos).wen = s.wen := by
        cases hends : pos.ends with
        | false => exact (s.advance_continues op hends).1
        | true =>
          obtain ⟨limit, rfl⟩ := (Pos.eq_of_ends hends).resolve_left hpos
          rfl
      exact .inr (.inr ⟨hwen, by simp [hs, hpos]⟩)
  · exact .inr (.inr ⟨rfl, by simp [hs]⟩)
  · obtain ⟨-, -, hwen, -⟩ := exec_next_frame he
    exact .inr (.inr ⟨hwen, by simp [hs]⟩)

/-- Settles O34: no primitive of the transport and no acceptance writes the configuration. -/
theorem configurationIsImmutable : Obligations.ConfigurationIsImmutable := by
  intro s t h
  obtain ⟨op, pos, -, rfl⟩ | ⟨-, -, rfl⟩ | ⟨-, i, rest, -, he⟩ := step_cases h
  · exact (s.advance_frame op pos).1
  · rfl
  · exact (exec_next_frame he).2.1

/-- Settles O35: a step in flight adds its one event; an acceptance adds none or `CS=1`. -/
theorem everyBusyStepIsOneEvent : Obligations.EveryBusyStepIsOneEvent := by
  refine ⟨fun s op pos hs => ?_, fun s t hs h => ?_⟩
  · obtain ⟨-, -, -, -, -, e, he⟩ := s.advance_frame op pos
    exact ⟨_, e, step_busy hs, he⟩
  · obtain ⟨op, pos, hb, -⟩ | ⟨-, -, rfl⟩ | ⟨-, i, rest, -, he⟩ := step_cases h
    · simp [hs] at hb
    · exact .inl rfl
    · obtain ⟨-, -, -, -, -, ⟨htrace, -⟩ | ⟨htrace, -⟩⟩ := exec_next_frame he
      · exact .inl htrace
      · exact .inr htrace

/-- Settles O36: the two sampling positions are those of `Pos.samples`; an acceptance does not sample. -/
theorem doIsSampledOnlyPerBitInAndPerPoll : Obligations.DoIsSampledOnlyPerBitInAndPerPoll := by
  intro s t h
  obtain ⟨op, pos, hs, rfl⟩ | ⟨hs, -, rfl⟩ | ⟨hs, i, rest, -, he⟩ := step_cases h
  · refine ⟨fun hsampling => ?_, fun ⟨hword, hpoll⟩ => ?_⟩
    · refine s.advance_samples op (pos.samples_eq_true_iff.mpr ?_)
      obtain ⟨op', k, hs'⟩ | ⟨op', hs'⟩ := hsampling
      · exact .inl ⟨k, (Seq.busy.inj (hs.symm.trans hs')).2⟩
      · exact .inr (Seq.busy.inj (hs.symm.trans hs')).2
    · have hnot : pos.samples = false := by
        rw [Bool.eq_false_iff, ne_eq, pos.samples_eq_true_iff]
        rintro (⟨k, rfl⟩ | rfl)
        · exact hword op k hs
        · exact hpoll op hs
      obtain ⟨hdo, e, htrace, hne⟩ := s.advance_unsampled op hnot
      exact ⟨hdo, fun b hb => hne b (by simpa [htrace] using hb)⟩
  · exact ⟨by simp [hs], fun _ => ⟨rfl, by simp⟩⟩
  · obtain ⟨-, -, -, hdo, -, hevent⟩ := exec_next_frame he
    refine ⟨by simp [hs], fun _ => ⟨hdo, fun b => ?_⟩⟩
    obtain ⟨htrace, -⟩ | ⟨htrace, -⟩ := hevent <;> simp [htrace]

/-- Settles O37: a step in flight answers only at the two ends of a request, an acceptance only where it is the
return. -/
theorem repliesComeOnlyWithTheReturn : Obligations.RepliesComeOnlyWithTheReturn := by
  intro s t h
  obtain ⟨op, pos, -, rfl⟩ | ⟨-, -, rfl⟩ | ⟨-, i, rest, -, he⟩ := step_cases h
  · cases hends : pos.ends with
    | false =>
      obtain ⟨-, -, hreplies, -⟩ := s.advance_continues op hends
      exact .inl hreplies
    | true => exact .inr (s.advance_ends op hends)
  · exact .inl rfl
  · obtain ⟨-, -, -, -, -, ⟨-, hidle, hr⟩ | ⟨-, hr, -⟩⟩ := exec_next_frame he
    · exact .inr ⟨hidle, hr⟩
    · exact .inl hr

/-- Settles O38: a step in flight always goes on, and an idle engine accepts every admitted request. -/
theorem stepStopsOnlyOnInadmissibleRequests : Obligations.StepStopsOnlyOnInadmissibleRequests := by
  have hgoes (s : State) (hnext : ∀ i rest, s.requests.next = some (i, rest) → i.wellFormed = true) :
      ∃ t, step s = .next t := by
    cases hs : s.seq with
    | busy op pos => exact ⟨_, step_busy hs⟩
    | idle =>
      cases hn : s.requests.next with
      | none => exact ⟨s, step_idle_none hs hn⟩
      | some p =>
        rw [step_idle_some hs hn]
        exact exec_idle hs (hnext p.1 p.2 hn)
  refine ⟨hgoes, fun s ha => ?_⟩
  obtain ⟨t, ht⟩ := hgoes s fun i rest hn => (ha.next hn).1
  refine ⟨t, ht, ?_⟩
  obtain ⟨op, pos, -, rfl⟩ | ⟨-, -, rfl⟩ | ⟨-, i, rest, hn, he⟩ := step_cases ht
  · obtain ⟨-, -, -, -, hr, -⟩ := s.advance_frame op pos
    rwa [hr]
  · exact ha
  · obtain ⟨-, -, -, -, hr, -⟩ := exec_next_frame he
    rw [hr]
    exact (ha.next hn).2

/-- Settles O45: the four forms of the host, each with the request it issues next. -/
theorem idleStepRunsTheNextRequest : Obligations.IdleStepRunsTheNextRequest := by
  intro s i rest tail n hs
  exact ⟨step_idle_some (by exact hs) (HostCalls.next_queue i rest tail n),
    step_idle_some (by exact hs) (HostCalls.next_repeats i rest n),
    step_idle_some (by exact hs) (HostCalls.next_free n), step_idle_none (by exact hs) (HostCalls.next_ends n)⟩

end

section
/-!
PROOFS. The invariant (10_state.md sections 4 and 11): its parts, each kept by every step, and the facts of a position
as what the step before it establishes.
-/

namespace Sys2Proof.Machine

/-- Each latch is the level last driven on its line (10_state.md R14). -/
def LinesTracked (s : State) : Prop :=
  s.cs = lastDriven .cs .noValue s.trace ∧ s.sk = lastDriven .sk .noValue s.trace ∧
    s.di = lastDriven .di .noValue s.trace

theorem LinesTracked.drive {s : State} (h : LinesTracked s) (l : Line) (b : Bit) : LinesTracked (s.drive l b) := by
  obtain ⟨hcs, hsk, hdi⟩ := h
  cases l <;> simp [LinesTracked, lastDriven_append, lastDriven, ← hcs, ← hsk, ← hdi]

theorem LinesTracked.delay {s : State} (h : LinesTracked s) (k : Budget) : LinesTracked (s.delay k) := by
  simpa [LinesTracked, lastDriven_append, lastDriven] using h

theorem LinesTracked.sample {s : State} (h : LinesTracked s) : LinesTracked s.sample := by
  simpa [LinesTracked, lastDriven_append, lastDriven] using h

theorem LinesTracked.advance {s : State} (h : LinesTracked s) (op : Op) (pos : Pos) :
    LinesTracked (s.advance op pos) := by
  cases hends : pos.ends with
  | true =>
    obtain rfl | ⟨limit, rfl⟩ := Pos.eq_of_ends hends <;> exact h.drive .cs false
  | false =>
    obtain ⟨u, acc, i, words, polls, q, hu, -, ht⟩ := s.advance_goesOn op hends
    rw [ht]
    generalize pos.samples = sampled at hu
    cases hu with
    | drive l b hl => exact h.drive l b
    | delay k => exact h.delay k
    | sample => exact h.sample

/-- What a request in flight has while it runs, at every position. -/
def Running (op : Op) (s : State) : Prop :=
  s.trace ≠ [] ∧ s.cs = .high ∧ (op.guarded = true → s.wen = true) ∧
    (op.addressed = true → addressInRange s.cfg s.a = true)

theorem seqInv_of_busy {s : State} {op : Op} {pos : Pos} (h : s.seq = .busy op pos) :
    seqInv s ↔ Running op s ∧ posInv s op pos := by
  simp only [seqInv, h, Running, and_assoc]

theorem Running.advance {s : State} {op : Op} {pos : Pos} (h : Running op s) (hends : pos.ends = false) :
    Running op (s.advance op pos) := by
  obtain ⟨-, hcs, hguard, hrange⟩ := h
  obtain ⟨hcfg, ha, -, -, -, e, htrace⟩ := s.advance_frame op pos
  obtain ⟨hwen, hcs', -⟩ := s.advance_continues op hends
  exact ⟨by simp [htrace], hcs'.trans hcs, by rwa [hwen], by rwa [hcfg, ha]⟩

/-- The request is at a position whose facts hold. -/
def AtPosition (op : Op) (s : State) : Prop := ∃ pos, s.seq = .busy op pos ∧ posInv s op pos

/-- The facts of a position do not speak of the sequencer. -/
theorem posInv_goto (s : State) (op : Op) (pos q : Pos) : posInv (s.goto op q) op pos ↔ posInv s op pos := by
  cases pos with
  | start p => cases p <;> simp [posInv, outLines]
  | command p => cases p <;> simp [posInv, outLines]
  | payloadOut p => cases p <;> simp [posInv, outLines]
  | wordIn k p => cases p <;> simp [posInv, inLines, accPending]
  | _ => simp [posInv]

theorem AtPosition.goto {s : State} {op : Op} {pos : Pos} (h : posInv s op pos) : AtPosition op (s.goto op pos) :=
  ⟨pos, State.goto_seq s op pos, (posInv_goto s op pos pos).mpr h⟩

/-- Only the payload's shift-out needs a payload. -/
def OutField.present (f : OutField) (e : EnvelopeArgs) : Prop := f = .payload → e.payload ≠ none

/-- The facts of a shift-out's position, for all three fields. -/
theorem posInv_outField (s : State) (op : Op) (f : OutField) (p : OutPhase) :
    posInv s op (f.pos p) ↔ f.present (s.envelope op) ∧ s.i < f.length (s.envelope op) ∧ s.words = [] ∧
      outLines s (f.value (s.envelope op)) p := by
  cases f with
  | start => simp [OutField.pos, OutField.present, OutField.length, OutField.value, posInv]
  | command => simp [OutField.pos, OutField.present, OutField.length, OutField.value, posInv]
  | payload =>
    cases hp : (s.envelope op).payload <;>
      simp [OutField.pos, OutField.present, OutField.length, OutField.value, posInv, hp]

/-- What the sending of the frame and the payload leaves on the lines (42_transport.md R72). -/
def LinesSent (op : Op) (s : State) : Prop :=
  s.sk = .low ∧ s.di = Latch.ofBit ((lastOut (s.envelope op)).testBit 0)

theorem atPosition_afterWords {s : State} {op : Op} (hwords : s.words.length = (s.envelope op).inWords)
    (hlines : LinesSent op s) : AtPosition op (s.afterWords op) := by
  unfold State.afterWords
  split
  next hwait => exact .goto ⟨by simpa using hwait, by simpa using hwords, hlines.1, by simpa using hlines.2, by simp⟩
  next => exact .goto ⟨hwords, hlines⟩

theorem fits_zero (c : Configuration) : fits c 0 := Nat.two_pow_pos c.w

theorem atPosition_nextWord {s : State} {op : Op} {k : Nat} (hk : k ≤ (s.envelope op).inWords)
    (hwords : s.words.length = k) (hlines : LinesSent op s) : AtPosition op (s.nextWord op k) := by
  unfold State.nextWord
  split
  next hlt =>
    have hw := s.cfg.w_pos
    refine .goto ⟨by simpa using hlt, hwords, ?_, fits_zero s.cfg, hlines.1, ?_, by simpa using hlines.2⟩
    · simp only [State.setI_i, State.setI_cfg, State.setAcc_cfg]; omega
    · intro j _; exact BitVec.getLsbD_zero
  next hge => exact atPosition_afterWords (by omega) hlines

theorem atPosition_enterShiftOut {s : State} {op : Op} (f : OutField) (hpresent : f.present (s.envelope op))
    (hlength : 0 < f.length (s.envelope op)) (hwords : s.words = []) (hsk : s.sk ≠ .high) :
    AtPosition op (s.enterShiftOut op f.pos (f.length (s.envelope op))) := by
  refine .goto ((posInv_outField _ op f .di).mpr ⟨by simpa using hpresent, ?_, hwords, hsk⟩)
  simp only [State.setI_i, State.envelope_setI]
  omega

/-- After a field's last bit the next part of the envelope begins as it should. -/
theorem atPosition_follow {s : State} {op : Op} (f : OutField) (hpresent : f.present (s.envelope op))
    (hwords : s.words = []) (hsk : s.sk = .low)
    (hdi : s.di = Latch.ofBit ((f.value (s.envelope op)).testBit 0)) : AtPosition op (f.follow op s) := by
  have hsk' : s.sk ≠ .high := by simp [hsk]
  have hempty : s.words.length = 0 := by simp [hwords]
  cases f with
  | start => exact atPosition_enterShiftOut .command nofun (by simp [OutField.length]) hwords hsk'
  | command =>
    simp only [OutField.follow, State.afterCommand]
    split
    next e hp =>
      have hlength : OutField.payload.length (s.envelope op) = e.length := by simp [OutField.length, hp]
      have hpos : 0 < e.length := State.envelope_payload_length hp ▸ s.cfg.w_pos
      rw [← hlength] at hpos ⊢
      exact atPosition_enterShiftOut .payload (by simp [OutField.present, hp]) hpos hwords hsk'
    next hp =>
      refine atPosition_nextWord (Nat.zero_le _) hempty ⟨hsk, ?_⟩
      simpa [OutField.value, lastOut, hp] using hdi
  | payload =>
    obtain ⟨e, hp⟩ := Option.ne_none_iff_exists'.mp (hpresent rfl)
    refine atPosition_nextWord (Nat.zero_le _) hempty ⟨hsk, ?_⟩
    simpa [OutField.value, lastOut, hp] using hdi

theorem atPosition_advance_outField {s : State} {op : Op} {f : OutField} {p : OutPhase}
    (h : posInv s op (f.pos p)) : AtPosition op (s.advance op (f.pos p)) := by
  obtain ⟨hpresent, hi, hwords, hlines⟩ := (posInv_outField s op f p).mp h
  rw [State.advance_outField]
  have stay {t : State} (q : OutPhase) (he : t.envelope op = s.envelope op) (hti : t.i < f.length (s.envelope op))
      (htw : t.words = []) (htl : outLines t (f.value (s.envelope op)) q) : AtPosition op (t.goto op (f.pos q)) :=
    .goto ((posInv_outField t op f q).mpr (by rw [he]; exact ⟨hpresent, hti, htw, htl⟩))
  cases p with
  | di => exact stay .dly1 (by simp) hi hwords ⟨hlines, rfl⟩
  | dly1 => exact stay .skHigh (by simp) hi hwords hlines
  | skHigh => exact stay .dly2 (by simp) hi hwords ⟨rfl, hlines.2⟩
  | dly2 => exact stay .skLow (by simp) hi hwords hlines
  | skLow => exact stay .dly3 (by simp) hi hwords ⟨rfl, hlines.2⟩
  | dly3 =>
    obtain ⟨hsk, hdi⟩ := hlines
    simp only [State.shiftOutTick]
    split
    next hzero =>
      exact atPosition_follow f (by simpa using hpresent) hwords hsk (by simpa [hzero] using hdi)
    next hpos =>
      refine stay .di (by simp) ?_ hwords ?_
      · simp only [State.delay_i, State.setI_i]; omega
      · simp [outLines, hsk]

/-- A bit ORed in at an index below the word width leaves a word that fits it. -/
theorem fits_or_shiftLeft {c : Configuration} {acc : Word} {i : Nat} (b : Bit) (hacc : fits c acc) (hi : i < c.w) :
    fits c (acc ||| (Word.ofBit b <<< i)) := by
  have hbit : fits c (Word.ofBit b <<< i) := by
    refine Nat.lt_pow_two_of_testBit _ fun j hj => ?_
    change (Word.ofBit b <<< i).getLsbD j = false
    rw [BitVec.getLsbD_shiftLeft, getLsbD_wordOfBit, decide_eq_false (show j - i ≠ 0 by omega)]
    simp
  unfold fits
  rw [BitVec.toNat_or]
  exact Nat.or_lt_two_pow hacc hbit

/-- A bit ORed in at an index leaves the bits below it 0. -/
theorem getLsbD_or_shiftLeft_below {acc : Word} {i j : Nat} (b : Bit) (hacc : acc.getLsbD j = false) (hj : j < i) :
    (acc ||| (Word.ofBit b <<< i)).getLsbD j = false := by
  simp [BitVec.getLsbD_or, BitVec.getLsbD_shiftLeft, hacc, hj]

theorem atPosition_advance_wordIn {s : State} {op : Op} {k : Nat} {p : InPhase} (h : posInv s op (.wordIn k p)) :
    AtPosition op (s.advance op (.wordIn k p)) := by
  obtain ⟨hk, hwords, hi, hfits, hsk, hacc, hdi⟩ := h
  cases p with
  | skHigh => exact .goto ⟨by simpa using hk, hwords, hi, hfits, rfl, hacc, by simpa using hdi⟩
  | dly1 => exact .goto ⟨by simpa using hk, hwords, hi, hfits, hsk, hacc, by simpa using hdi⟩
  | sample =>
    refine .goto ⟨by simpa using hk, hwords, hi, fits_or_shiftLeft _ hfits hi, hsk, ?_, by simpa using hdi⟩
    intro j hj
    exact getLsbD_or_shiftLeft_below _ (hacc j hj.le) hj
  | skLow => exact .goto ⟨by simpa using hk, hwords, hi, hfits, rfl, hacc, by simpa using hdi⟩
  | dly2 =>
    simp only [State.advance, State.shiftInTick]
    split
    next hzero =>
      exact atPosition_nextWord (by simpa using hk) (by simp [hwords]) ⟨hsk, by simpa using hdi⟩
    next hpos =>
      refine .goto ⟨by simpa using hk, hwords, ?_, hfits, hsk, fun j hj => ?_, by simpa using hdi⟩
      · simp only [State.delay_i, State.setI_i, State.delay_cfg, State.setI_cfg]; omega
      · simp only [State.delay_i, State.setI_i] at hj
        exact hacc j (by omega)

theorem atPosition_advance_readyWait {s : State} {op : Op} {p : PollPhase} (h : posInv s op (.readyWait p)) :
    AtPosition op (s.advance op (.readyWait p)) := by
  obtain ⟨hwait, hwords, hsk, hdi, hpolls⟩ := h
  cases p with
  | sample =>
    simp only [State.advance, State.pollTick, State.pollFailed]
    split
    · exact .goto ⟨by simpa using hwords, hsk, by simpa using hdi⟩
    · split
      next hl => exact .goto ⟨by simpa using hwait, by simpa using hwords, hsk, by simpa using hdi,
          fun l hl' => absurd (hl.symm.trans hl') nofun⟩
      next limit hl =>
        split
        next => exact .goto ⟨by simpa using hwait, hl, hsk, by simpa using hdi⟩
        next hne =>
          refine .goto ⟨by simpa using hwait, by simpa using hwords, hsk, by simpa using hdi, fun l hl' => ?_⟩
          have hle := (hpolls l hl').1
          have heq : l = limit := Option.some.inj (hl'.symm.trans hl)
          exact ⟨hle, fun _ => lt_of_le_of_ne hle (heq ▸ hne)⟩
  | dly =>
    refine .goto ⟨by simpa using hwait, by simpa using hwords, hsk, by simpa using hdi, fun l hl => ?_⟩
    exact ⟨(hpolls l hl).2 rfl, nofun⟩

/-- A step that does not end the request leads to a position whose facts hold. -/
theorem atPosition_advance {s : State} {op : Op} {pos : Pos} (hends : pos.ends = false) (h : posInv s op pos) :
    AtPosition op (s.advance op pos) := by
  cases pos using Pos.casesByField with
  | csAssert =>
    obtain ⟨hsk, hwords⟩ := h
    exact atPosition_enterShiftOut .start nofun Nat.one_pos hwords hsk
  | out f p => exact atPosition_advance_outField h
  | wordIn k p => exact atPosition_advance_wordIn h
  | readyWait p => exact atPosition_advance_readyWait h
  | csDeassert => cases hends
  | timeoutDeassert limit => cases hends

/-- At both ends of a request the lines are as the frame and the payload left them. -/
theorem linesSent_of_ends {s : State} {op : Op} {pos : Pos} (hends : pos.ends = true) (h : posInv s op pos) :
    LinesSent op s := by
  obtain rfl | ⟨limit, rfl⟩ := Pos.eq_of_ends hends
  · exact h.2
  · exact h.2.2

/-- The last step of a request leaves CS and SK low and DI at a level (42_transport.md R72). -/
theorem seqInv_advance_of_ends {s : State} {op : Op} {pos : Pos} (hends : pos.ends = true) (h : posInv s op pos) :
    seqInv (s.advance op pos) := by
  obtain ⟨hsk, hdi⟩ := linesSent_of_ends hends h
  have hdi' : s.di ≠ .noValue := hdi ▸ Latch.ofBit_ne_noValue _
  obtain rfl | ⟨limit, rfl⟩ := Pos.eq_of_ends hends
  · exact .inr ⟨by simp [State.advance, State.complete], rfl, hsk, hdi'⟩
  · exact .inr ⟨by simp [State.advance], rfl, hsk, hdi'⟩

theorem seqInv_advance {s : State} {op : Op} {pos : Pos} (hs : s.seq = .busy op pos) (h : seqInv s) :
    seqInv (s.advance op pos) := by
  obtain ⟨hrun, hpos⟩ := (seqInv_of_busy hs).mp h
  cases hends : pos.ends with
  | true => exact seqInv_advance_of_ends hends hpos
  | false =>
    obtain ⟨q, hq, hposq⟩ := atPosition_advance hends hpos
    exact (seqInv_of_busy hq).mpr ⟨hrun.advance hends, hposq⟩

/-- Every word shifted in fits the configured width (10_state.md R16). -/
def WordsFit (s : State) : Prop := ∀ w ∈ s.words, fits s.cfg w

theorem WordsFit.advance {s : State} {op : Op} {pos : Pos} (hpos : posInv s op pos) (h : WordsFit s) :
    WordsFit (s.advance op pos) := by
  have hcfg := (s.advance_frame op pos).1
  unfold WordsFit
  obtain hw | ⟨⟨k, rfl⟩, hw⟩ := s.advance_words op pos
  · rw [hw, hcfg]
    exact h
  · obtain ⟨-, -, -, hacc, -⟩ := hpos
    rw [hw, hcfg]
    intro w hmem
    obtain hold | hnew := List.mem_append.mp hmem
    · exact h w hold
    · exact List.mem_singleton.mp hnew ▸ hacc

theorem inv_iff (s : State) : Inv s ↔ seqInv s ∧ WordsFit s ∧ LinesTracked s := Iff.rfl

/-- A step of a request in flight keeps the invariant. -/
theorem inv_advance {s : State} {op : Op} {pos : Pos} (hs : s.seq = .busy op pos) (h : Inv s) :
    Inv (s.advance op pos) := by
  obtain ⟨hseq, hwords, hlines⟩ := (inv_iff s).mp h
  have hpos := ((seqInv_of_busy hs).mp hseq).2
  exact (inv_iff _).mpr ⟨seqInv_advance hs hseq, hwords.advance hpos, hlines.advance op pos⟩

/-- The facts of an idle engine do not speak of the host. -/
theorem seqInv_setRequests {s : State} (hs : s.seq = .idle) (h : HostCalls) :
    seqInv { s with requests := h } ↔ seqInv s := by simp only [seqInv, hs]

theorem sk_ne_high_of_idle {s : State} (hs : s.seq = .idle) (h : seqInv s) : s.sk ≠ .high := by
  simp only [seqInv, hs] at h
  obtain ⟨-, -, hsk, -⟩ | ⟨-, -, hsk, -⟩ := h <;> simp [hsk]

/-- An acceptance keeps the invariant: at once ended it changes the replies only, else it raises CS with its guards
passed. -/
theorem inv_exec {i : Instr} {s t : State} (h : Inv s) (he : exec i s = .next t) : Inv t := by
  obtain ⟨hseq, hwords, hlines⟩ := (inv_iff s).mp h
  obtain ⟨hs, ⟨r, rfl⟩ | ⟨op, addr, value, count, rfl, hguard, hrange⟩⟩ := exec_next_cases he
  · rw [State.finish_of_idle hs]
    exact ⟨by simpa only [seqInv, hs] using hseq, hwords, hlines⟩
  · refine (inv_iff _).mpr ⟨(seqInv_of_busy rfl).mpr ⟨⟨?_, rfl, hguard, hrange⟩, ?_⟩, nofun, ?_⟩
    · simp [State.launch]
    · have hsk : s.sk ≠ .high := sk_ne_high_of_idle hs hseq
      exact ⟨hsk, rfl⟩
    · exact LinesTracked.drive (s := (s.loaded addr value count).setWords []) hlines .cs true

end Sys2Proof.Machine

open Sys2Proof Sys2Proof.Machine

/-- Settles O40: a step is an event of the request in flight, the acceptance of a request, or nothing. -/
theorem everyStepKeepsTheInvariant : Obligations.EveryStepKeepsTheInvariant := by
  intro s t hinv h
  obtain ⟨op, pos, hs, rfl⟩ | ⟨-, -, rfl⟩ | ⟨hs, i, rest, -, he⟩ := step_cases h
  · exact inv_advance hs hinv
  · exact hinv
  · exact inv_exec ⟨(seqInv_setRequests hs rest).mpr hinv.1, hinv.2⟩ he

/-- Settles O41: a constructed engine has driven nothing and shifted nothing in. -/
theorem constructedEnginesMeetTheInvariant : Obligations.ConstructedEnginesMeetTheInvariant := by
  have hconstructed (c : Configuration) : Inv (State.constructed c) :=
    ⟨.inl ⟨rfl, rfl, rfl, rfl⟩, nofun, rfl, rfl, rfl⟩
  exact ⟨hconstructed, hconstructed Config.resetConfiguration⟩

end

section
/-!
PROOFS. What no rule reads (10_state.md sections 2 and 4): a relation between states that agree on all a rule reads and
that every primitive keeps is kept by every run. The line latches and the delay counts are two uses of it.
-/

namespace Sys2Proof.Machine

/-- The request that touches the wire, for each meaning that does (log 10). -/
def opOf : Instr → Option Op
  | .enableWrite => some .enableWrite
  | .disableWrite => some .disableWrite
  | .isWriteEnabled => none
  | .eraseAll => some .eraseAll
  | .writeAll _ => some .writeAll
  | .erase _ => some .erase
  | .write _ _ => some .write
  | .read _ => some .read
  | .readSequential _ _ => some .readSequential

/-- The operands a request loads at its acceptance (10_state.md R15). -/
def loadOperands (i : Instr) (s : State) : State :=
  match i with
  | .enableWrite => s
  | .disableWrite => s
  | .isWriteEnabled => s
  | .eraseAll => s
  | .writeAll value => s.loadV value
  | .erase addr => s.loadA addr
  | .write addr value => (s.loadA addr).loadV value
  | .read addr => s.loadA addr
  | .readSequential addr count => (s.loadA addr).loadN count.toNat

section
variable {R : State → State → Prop} {s t u u' : State}

theorem rel_latchGuard (hwen : s.wen = t.wen) (hfinish : ∀ r, R (s.finish r) (t.finish r)) (hbody : R u u') :
    R (s.latchGuard u) (t.latchGuard u') := by
  unfold State.latchGuard
  rw [hwen]
  split
  · exact hbody
  · exact hfinish _

theorem rel_validate {addr : Int} (hrange : addressInRange s.cfg addr = addressInRange t.cfg addr)
    (hfinish : ∀ r, R (s.finish r) (t.finish r)) (hbody : R u u') : R (s.validate addr u) (t.validate addr u') := by
  unfold State.validate
  rw [hrange]
  split
  · exact hbody
  · exact hfinish _

theorem rel_guardAndValidate {addr : Int} (hwen : s.wen = t.wen) (horder : s.cfg.guardOrder = t.cfg.guardOrder)
    (hrange : addressInRange s.cfg addr = addressInRange t.cfg addr) (hfinish : ∀ r, R (s.finish r) (t.finish r))
    (hbody : R u u') : R (s.guardAndValidate addr u) (t.guardAndValidate addr u') := by
  unfold State.guardAndValidate
  rw [horder]
  split
  · exact rel_latchGuard hwen hfinish (rel_validate hrange hfinish hbody)
  · exact rel_validate hrange hfinish (rel_latchGuard hwen hfinish hbody)

theorem sameOutcome_whenIdle (hseq : s.seq = t.seq) (hbody : R u u') :
    sameOutcome R (whenIdle s u) (whenIdle t u') := by
  unfold whenIdle
  rw [hseq]
  split
  · exact hbody
  · rfl

/-- Two states that agree on what an acceptance reads accept a request alike: a relation holds of the two outcomes where
it holds after a return and after the launch. -/
theorem sameOutcome_exec {i : Instr} (hseq : s.seq = t.seq) (hwen : s.wen = t.wen)
    (horder : s.cfg.guardOrder = t.cfg.guardOrder)
    (hrange : ∀ addr, addressInRange s.cfg addr = addressInRange t.cfg addr)
    (hfinish : ∀ r, R (s.finish r) (t.finish r))
    (hlaunch : ∀ op, opOf i = some op → R ((loadOperands i s).launch op) ((loadOperands i t).launch op)) :
    sameOutcome R (exec i s) (exec i t) := by
  cases i with
  | enableWrite => exact sameOutcome_whenIdle hseq (hlaunch _ rfl)
  | disableWrite => exact sameOutcome_whenIdle hseq (hlaunch _ rfl)
  | isWriteEnabled => exact sameOutcome_whenIdle hseq (hwen ▸ hfinish _)
  | eraseAll => exact sameOutcome_whenIdle hseq (rel_latchGuard hwen hfinish (hlaunch _ rfl))
  | writeAll value => exact sameOutcome_whenIdle hseq (rel_latchGuard hwen hfinish (hlaunch _ rfl))
  | erase addr =>
    exact sameOutcome_whenIdle hseq (rel_guardAndValidate hwen horder (hrange addr) hfinish (hlaunch _ rfl))
  | write addr value =>
    exact sameOutcome_whenIdle hseq (rel_guardAndValidate hwen horder (hrange addr) hfinish (hlaunch _ rfl))
  | read addr => exact sameOutcome_whenIdle hseq (rel_validate (hrange addr) hfinish (hlaunch _ rfl))
  | readSequential addr count =>
    simp only [exec, execReadSequential]
    split
    · exact sameOutcome_whenIdle hseq (rel_validate (hrange addr) hfinish (hlaunch _ rfl))
    · rfl

/-- Two states that agree on the sequencer and the host step alike where they do so with a request in flight and at an
acceptance. -/
theorem sameOutcome_step (hseq : s.seq = t.seq) (hrequests : s.requests = t.requests) (hsame : R s t)
    (hbusy : ∀ op pos, s.seq = .busy op pos → R (s.advance op pos) (t.advance op pos))
    (hidle : s.seq = .idle → ∀ i rest,
      sameOutcome R (exec i { s with requests := rest }) (exec i { t with requests := rest })) :
    sameOutcome R (step s) (step t) := by
  cases hs : s.seq with
  | busy op pos =>
    rw [step_busy hs, step_busy (hseq ▸ hs)]
    exact hbusy op pos hs
  | idle =>
    cases hn : s.requests.next with
    | none =>
      rw [step_idle_none hs hn, step_idle_none (hseq ▸ hs) (hrequests ▸ hn)]
      exact hsame
    | some p =>
      rw [step_idle_some hs hn, step_idle_some (hseq ▸ hs) (hrequests ▸ hn)]
      exact hidle hs p.1 p.2

end

/-- Two states agree on everything a rule reads: all but the delay counts, the line latches, the trace and the
replies. -/
structure SameReads (s t : State) : Prop where
  model : s.cfg.model = t.cfg.model
  org : s.cfg.org = t.cfg.org
  readyLimit : s.cfg.readyLimit = t.cfg.readyLimit
  guardOrder : s.cfg.guardOrder = t.cfg.guardOrder
  wen : s.wen = t.wen
  a : s.a = t.a
  v : s.v = t.v
  n : s.n = t.n
  acc : s.acc = t.acc
  i : s.i = t.i
  seq : s.seq = t.seq
  words : s.words = t.words
  polls : s.polls = t.polls
  requests : s.requests = t.requests
  doIn : s.doIn = t.doIn

/-- The envelope's arguments depend on organization, model and operands only (42_transport.md R70). -/
theorem SameReads.envelope {s t : State} (h : SameReads s t) (op : Op) : s.envelope op = t.envelope op := by
  cases op <;>
    simp [State.envelope, enableWriteEnvelope, disableWriteEnvelope, eraseAllEnvelope, writeAllEnvelope, eraseEnvelope,
      writeEnvelope, readEnvelope, readSequentialEnvelope, sequentialWords, Configuration.aw, Configuration.am,
      Configuration.w, Configuration.wc, h.model, h.org, h.a, h.v, h.n]

theorem SameReads.w {s t : State} (h : SameReads s t) : s.cfg.w = t.cfg.w := by simp [Configuration.w, h.org]

theorem SameReads.addressInRange {s t : State} (h : SameReads s t) (addr : Int) :
    addressInRange s.cfg addr = addressInRange t.cfg addr := by
  have hwc : s.cfg.wc = t.cfg.wc := by simp [Configuration.wc, h.model, h.org]
  rw [Machine.addressInRange, hwc, Machine.addressInRange]

/-- A relation between states that no rule can break: its states agree on what a rule reads, and every write of the
machine keeps it. -/
structure Unread (R : State → State → Prop) : Prop where
  reads : ∀ {s t}, R s t → SameReads s t
  drive : ∀ {s t}, R s t → ∀ l b, R (s.drive l b) (t.drive l b)
  delay : ∀ {s t}, R s t → ∀ k, R (s.delay k) (t.delay k)
  sample : ∀ {s t}, R s t → R s.sample t.sample
  goto : ∀ {s t}, R s t → ∀ op pos, R (s.goto op pos) (t.goto op pos)
  finish : ∀ {s t}, R s t → ∀ r, R (s.finish r) (t.finish r)
  setI : ∀ {s t}, R s t → ∀ i, R (s.setI i) (t.setI i)
  setAcc : ∀ {s t}, R s t → ∀ acc, R (s.setAcc acc) (t.setAcc acc)
  setWords : ∀ {s t}, R s t → ∀ ws, R (s.setWords ws) (t.setWords ws)
  setPolls : ∀ {s t}, R s t → ∀ k, R (s.setPolls k) (t.setPolls k)
  setWen : ∀ {s t}, R s t → ∀ b, R (s.setWen b) (t.setWen b)
  loadA : ∀ {s t}, R s t → ∀ x, R (s.loadA x) (t.loadA x)
  loadV : ∀ {s t}, R s t → ∀ x, R (s.loadV x) (t.loadV x)
  loadN : ∀ {s t}, R s t → ∀ k, R (s.loadN k) (t.loadN k)
  setRequests : ∀ {s t}, R s t → ∀ h, R { s with requests := h } { t with requests := h }

section
variable {R : State → State → Prop} {s t : State}

theorem Unread.enterShiftOut (hR : Unread R) (h : R s t) (op : Op) (here : OutPhase → Pos) (length : Nat) :
    R (s.enterShiftOut op here length) (t.enterShiftOut op here length) := hR.goto (hR.setI h _) _ _

theorem Unread.afterWords (hR : Unread R) (h : R s t) (op : Op) : R (s.afterWords op) (t.afterWords op) := by
  unfold State.afterWords
  rw [(hR.reads h).envelope]
  split
  · exact hR.goto (hR.setPolls h 0) _ _
  · exact hR.goto h _ _

theorem Unread.nextWord (hR : Unread R) (h : R s t) (op : Op) (k : Nat) : R (s.nextWord op k) (t.nextWord op k) := by
  unfold State.nextWord State.enterWord
  rw [(hR.reads h).envelope, (hR.reads h).w]
  split
  · exact hR.goto (hR.setI (hR.setAcc h 0) _) _ _
  · exact hR.afterWords h op

theorem Unread.follow (hR : Unread R) (h : R s t) (f : OutField) (op : Op) : R (f.follow op s) (f.follow op t) := by
  have henv := (hR.reads h).envelope op
  cases f with
  | start =>
    simp only [OutField.follow, State.afterStart, henv]
    exact hR.enterShiftOut h _ _ _
  | command =>
    simp only [OutField.follow, State.afterCommand, henv]
    split
    · exact hR.enterShiftOut h _ _ _
    · exact hR.nextWord h op 0
  | payload => exact hR.nextWord h op 0

theorem Unread.shiftOutTick (hR : Unread R) (h : R s t) (op : Op) (f : OutField) (value : Nat) (p : OutPhase) :
    R (s.shiftOutTick op f.pos value (f.follow op) p) (t.shiftOutTick op f.pos value (f.follow op) p) := by
  have hi := (hR.reads h).i
  cases p with
  | di => simp only [State.shiftOutTick, hi]; exact hR.goto (hR.drive h _ _) _ _
  | dly1 => exact hR.goto (hR.delay h _) _ _
  | skHigh => exact hR.goto (hR.drive h _ _) _ _
  | dly2 => exact hR.goto (hR.delay h _) _ _
  | skLow => exact hR.goto (hR.drive h _ _) _ _
  | dly3 =>
    simp only [State.shiftOutTick, hi]
    split
    · exact hR.follow (hR.delay h _) f op
    · exact hR.goto (hR.delay (hR.setI h _) _) _ _

theorem Unread.shiftInTick (hR : Unread R) (h : R s t) (op : Op) (k : Nat) (p : InPhase) :
    R (s.shiftInTick op k p) (t.shiftInTick op k p) := by
  have hi := (hR.reads h).i
  cases p with
  | skHigh => exact hR.goto (hR.drive h _ _) _ _
  | dly1 => exact hR.goto (hR.delay h _) _ _
  | sample =>
    have hsampled := hR.sample h
    simp only [State.shiftInTick, State.accumulate, (hR.reads h).doIn, (hR.reads hsampled).i, (hR.reads hsampled).acc]
    exact hR.goto (hR.setAcc hsampled _) _ _
  | skLow => exact hR.goto (hR.drive h _ _) _ _
  | dly2 =>
    simp only [State.shiftInTick, hi, (hR.reads h).words, (hR.reads h).acc]
    split
    · exact hR.nextWord (hR.delay (hR.setWords h _) _) op (k + 1)
    · exact hR.goto (hR.delay (hR.setI h _) _) _ _

theorem Unread.pollFailed (hR : Unread R) (h : R s t) (op : Op) : R (s.pollFailed op) (t.pollFailed op) := by
  unfold State.pollFailed
  rw [(hR.reads h).readyLimit, (hR.reads h).polls]
  split
  · exact hR.goto h _ _
  · split <;> exact hR.goto h _ _

theorem Unread.pollTick (hR : Unread R) (h : R s t) (op : Op) (p : PollPhase) :
    R (s.pollTick op p) (t.pollTick op p) := by
  cases p with
  | sample =>
    simp only [State.pollTick, (hR.reads h).doIn]
    split
    · exact hR.goto (hR.sample h) _ _
    · exact hR.pollFailed (hR.sample h) op
  | dly =>
    simp only [State.pollTick, (hR.reads h).polls]
    exact hR.goto (hR.delay (hR.setPolls h _) _) _ _

theorem Unread.complete (hR : Unread R) (h : R s t) (op : Op) : R (s.complete op) (t.complete op) := by
  unfold State.complete
  rw [(hR.reads h).wen, State.result_congr op (hR.reads h).words]
  exact hR.finish (hR.setWen h _) _

theorem Unread.advance (hR : Unread R) (h : R s t) (op : Op) (pos : Pos) : R (s.advance op pos) (t.advance op pos) := by
  cases pos using Pos.casesByField with
  | csAssert => exact hR.enterShiftOut (hR.delay h _) _ _ _
  | out f p =>
    rw [State.advance_outField, State.advance_outField, (hR.reads h).envelope]
    exact hR.shiftOutTick h op f _ p
  | wordIn k p => exact hR.shiftInTick h op k p
  | readyWait p => exact hR.pollTick h op p
  | csDeassert => exact hR.complete (hR.drive h _ _) op
  | timeoutDeassert limit => exact hR.finish (hR.drive h _ _) _

theorem Unread.launch (hR : Unread R) (h : R s t) (op : Op) : R (s.launch op) (t.launch op) :=
  hR.goto (hR.drive (hR.setWords h _) _ _) _ _

/-- Acceptance keeps such a relation, and so does a return at acceptance. -/
theorem Unread.exec (hR : Unread R) (h : R s t) (i : Instr) : sameOutcome R (exec i s) (exec i t) := by
  have hreads := hR.reads h
  refine sameOutcome_exec hreads.seq hreads.wen hreads.guardOrder hreads.addressInRange (hR.finish h) fun op _ =>
    hR.launch ?_ op
  cases i with
  | writeAll value => exact hR.loadV h _
  | erase addr => exact hR.loadA h _
  | write addr value => exact hR.loadV (hR.loadA h _) _
  | read addr => exact hR.loadA h _
  | readSequential addr count => exact hR.loadN (hR.loadA h _) _
  | _ => exact h

/-- Two related states step to outcomes of the same kind, to related states. -/
theorem Unread.step (hR : Unread R) (h : R s t) : sameOutcome R (step s) (step t) :=
  sameOutcome_step (hR.reads h).seq (hR.reads h).requests h (fun op pos _ => hR.advance h op pos)
    fun _ i rest => hR.exec (hR.setRequests h rest) i

end

/-- What every step keeps of two states, every run keeps. -/
theorem sameOutcome_stepN {R : State → State → Prop}
    (hstep : ∀ {s t : State}, R s t → sameOutcome R (step s) (step t)) (n : Nat) {s t : State} (h : R s t) :
    sameOutcome R (stepN n s) (stepN n t) := by
  induction n generalizing s t with
  | zero => exact h
  | succ n ih =>
    have hst := hstep h
    simp only [stepN]
    cases hs : step s <;> cases ht : step t <;> rw [hs, ht] at hst
    case next.next => exact ih hst
    case fault.fault => exact hst
    case refused.refused => exact hst
    all_goals exact hst.elim

/-- Two states that differ at most in the levels of the three line latches. -/
def SameButLines (s t : State) : Prop := ∃ x y z, t = { s with cs := x, sk := y, di := z }

theorem unread_sameButLines : Unread SameButLines where
  reads := by rintro s _ ⟨x, y, z, rfl⟩; constructor <;> rfl
  drive := by
    rintro s _ ⟨x, y, z, rfl⟩ l b
    cases l with
    | cs => exact ⟨Latch.ofBit b, y, z, rfl⟩
    | sk => exact ⟨x, Latch.ofBit b, z, rfl⟩
    | di => exact ⟨x, y, Latch.ofBit b, rfl⟩
  delay := by rintro s _ ⟨x, y, z, rfl⟩ k; exact ⟨x, y, z, rfl⟩
  sample := by rintro s _ ⟨x, y, z, rfl⟩; exact ⟨x, y, z, rfl⟩
  goto := by rintro s _ ⟨x, y, z, rfl⟩ op pos; exact ⟨x, y, z, rfl⟩
  finish := by rintro s _ ⟨x, y, z, rfl⟩ r; exact ⟨x, y, z, rfl⟩
  setI := by rintro s _ ⟨x, y, z, rfl⟩ i; exact ⟨x, y, z, rfl⟩
  setAcc := by rintro s _ ⟨x, y, z, rfl⟩ acc; exact ⟨x, y, z, rfl⟩
  setWords := by rintro s _ ⟨x, y, z, rfl⟩ ws; exact ⟨x, y, z, rfl⟩
  setPolls := by rintro s _ ⟨x, y, z, rfl⟩ k; exact ⟨x, y, z, rfl⟩
  setWen := by rintro s _ ⟨x, y, z, rfl⟩ b; exact ⟨x, y, z, rfl⟩
  loadA := by rintro s _ ⟨x, y, z, rfl⟩ a; exact ⟨x, y, z, rfl⟩
  loadV := by rintro s _ ⟨x, y, z, rfl⟩ v; exact ⟨x, y, z, rfl⟩
  loadN := by rintro s _ ⟨x, y, z, rfl⟩ k; exact ⟨x, y, z, rfl⟩
  setRequests := by rintro s _ ⟨x, y, z, rfl⟩ h; exact ⟨x, y, z, rfl⟩

/-- A change of the delay counts, and of the counts a trace's delay events carry, keeps the shapes of the events. -/
theorem unread_sameButDelays : Unread SameButDelays where
  reads := by
    rintro s t ⟨hmodel, horg, hlimit, horder, hwen, -, -, -, ha, hv, hn, hacc, hi, hseq, hwords, hpolls, hrequests, hdo,
      -, -⟩
    exact ⟨hmodel, horg, hlimit, horder, hwen, ha, hv, hn, hacc, hi, hseq, hwords, hpolls, hrequests, hdo⟩
  drive := by intro s t h l b; cases l <;> simp_all [SameButDelays]
  delay := by intro s t h k; simp_all [SameButDelays, Event.shape]
  sample := by intro s t h; simp_all [SameButDelays]
  goto := by intro s t h op pos; simp_all [SameButDelays]
  finish := by intro s t h r; simp_all [SameButDelays]
  setI := by intro s t h i; simp_all [SameButDelays]
  setAcc := by intro s t h acc; simp_all [SameButDelays]
  setWords := by intro s t h ws; simp_all [SameButDelays]
  setPolls := by intro s t h k; simp_all [SameButDelays]
  setWen := by intro s t h b; simp_all [SameButDelays]
  loadA := by intro s t h x; simp_all [SameButDelays]
  loadV := by intro s t h x; simp_all [SameButDelays]
  loadN := by intro s t h k; simp_all [SameButDelays]
  setRequests := by intro s t h r; simp_all [SameButDelays]

end Sys2Proof.Machine

open Sys2Proof Sys2Proof.Machine

/-- Settles O42: a step keeps "the same but for the latches", since no rule reads them. -/
theorem outputLatchesAreNeverRead : Obligations.OutputLatchesAreNeverRead := by
  intro s t x y z h
  have hstep := unread_sameButLines.step (s := s) (t := { s with cs := x, sk := y, di := z }) ⟨x, y, z, rfl⟩
  rw [h] at hstep
  cases ht : step { s with cs := x, sk := y, di := z } <;> rw [ht] at hstep
  case next t' =>
    obtain ⟨x', y', z', rfl⟩ := hstep
    exact ⟨_, rfl, rfl⟩
  all_goals exact hstep.elim

/-- Settles O43: no rule reads a delay count, and every primitive keeps the shapes of the events. -/
theorem delayCountsChangeNothingElse : Obligations.DelayCountsChangeNothingElse :=
  fun n _ _ h => sameOutcome_stepN unread_sameButDelays.step n h

end

section
/-!
PROOFS. What the transient latches hold (10_state.md section 11): between requests nothing, within one what the position
still reads. Two engines that agree on the rest and on what is read stay so.
-/

namespace Sys2Proof.Machine

section
variable {s t : State}

theorem SameBetweenRequests.drive (h : SameBetweenRequests s t) (l : Line) (b : Bit) :
    SameBetweenRequests (s.drive l b) (t.drive l b) := by
  cases l <;> simp_all [SameBetweenRequests]

theorem SameBetweenRequests.delay (h : SameBetweenRequests s t) (k : Budget) :
    SameBetweenRequests (s.delay k) (t.delay k) := by
  simp_all [SameBetweenRequests]

theorem SameBetweenRequests.sample (h : SameBetweenRequests s t) : SameBetweenRequests s.sample t.sample := by
  simp_all [SameBetweenRequests]

theorem SameBetweenRequests.goto (h : SameBetweenRequests s t) (op : Op) (pos : Pos) :
    SameBetweenRequests (s.goto op pos) (t.goto op pos) := by
  simp_all [SameBetweenRequests]

theorem SameBetweenRequests.finish (h : SameBetweenRequests s t) (r : Reply) :
    SameBetweenRequests (s.finish r) (t.finish r) := by
  simp_all [SameBetweenRequests]

theorem SameBetweenRequests.setWen (h : SameBetweenRequests s t) (b : Bool) :
    SameBetweenRequests (s.setWen b) (t.setWen b) := by
  simp_all [SameBetweenRequests]

theorem SameBetweenRequests.setRequests (h : SameBetweenRequests s t) (r : HostCalls) :
    SameBetweenRequests { s with requests := r } { t with requests := r } := by
  simp_all [SameBetweenRequests]

theorem SameBetweenRequests.afterLoading (h : SameBetweenRequests s t) (i : Instr) :
    SameBetweenRequests (loadOperands i s) (loadOperands i t) := by
  cases i <;> exact h

end

/-- The transient latches a position still reads: the bit index within a shift, the accumulator within a word, the poll
count within a ready-wait. -/
def SameLatches (s t : State) : Pos → Prop
  | .start _ => s.i = t.i
  | .command _ => s.i = t.i
  | .payloadOut _ => s.i = t.i
  | .wordIn _ _ => s.i = t.i ∧ s.acc = t.acc
  | .readyWait _ => s.polls = t.polls
  | .csAssert => True
  | .csDeassert => True
  | .timeoutDeassert _ => True

theorem sameLatches_outField (s t : State) (f : OutField) (p : OutPhase) :
    SameLatches s t (f.pos p) ↔ s.i = t.i := by cases f <;> rfl

/-- Two engines with the request `op` in flight that differ in nothing a later rule reads, but for what the position
adds. -/
structure SameRequest (op : Op) (s t : State) : Prop where
  observed : SameBetweenRequests s t
  envelope : s.envelope op = t.envelope op
  words : s.words = t.words

/-- Two engines no run tells apart. -/
def Indistinct (s t : State) : Prop :=
  SameBetweenRequests s t ∧ ∀ op pos, s.seq = .busy op pos → SameRequest op s t ∧ SameLatches s t pos

section
variable {op : Op} {s t : State}

theorem SameBetweenRequests.cfg_eq (h : SameBetweenRequests s t) : s.cfg = t.cfg := h.1

theorem SameBetweenRequests.wen_eq (h : SameBetweenRequests s t) : s.wen = t.wen := h.2.1

theorem SameBetweenRequests.doIn_eq (h : SameBetweenRequests s t) : s.doIn = t.doIn := by
  obtain ⟨-, -, -, -, -, -, -, hdo, -, -⟩ := h
  exact hdo

theorem SameBetweenRequests.seq_eq (h : SameBetweenRequests s t) : s.seq = t.seq := by
  obtain ⟨-, -, -, -, -, hseq, -⟩ := h
  exact hseq

theorem SameBetweenRequests.requests_eq (h : SameBetweenRequests s t) : s.requests = t.requests := by
  obtain ⟨-, -, -, -, -, -, hrequests, -⟩ := h
  exact hrequests

theorem SameRequest.drive (h : SameRequest op s t) (l : Line) (b : Bit) :
    SameRequest op (s.drive l b) (t.drive l b) :=
  ⟨h.observed.drive l b, by simpa using h.envelope, by simpa using h.words⟩

theorem SameRequest.delay (h : SameRequest op s t) (k : Budget) : SameRequest op (s.delay k) (t.delay k) :=
  ⟨h.observed.delay k, by simpa using h.envelope, h.words⟩

theorem SameRequest.sample (h : SameRequest op s t) : SameRequest op s.sample t.sample :=
  ⟨h.observed.sample, by simpa using h.envelope, h.words⟩

/-- The bit index, the accumulator and the poll count may change to any values. -/
theorem SameRequest.setI (h : SameRequest op s t) (i j : Nat) : SameRequest op (s.setI i) (t.setI j) :=
  ⟨h.observed, by simpa using h.envelope, h.words⟩

theorem SameRequest.setAcc (h : SameRequest op s t) (x y : Word) : SameRequest op (s.setAcc x) (t.setAcc y) :=
  ⟨h.observed, by simpa using h.envelope, h.words⟩

theorem SameRequest.setPolls (h : SameRequest op s t) (j k : Nat) : SameRequest op (s.setPolls j) (t.setPolls k) :=
  ⟨h.observed, by simpa using h.envelope, h.words⟩

theorem SameRequest.setWords (h : SameRequest op s t) (ws : List Word) :
    SameRequest op (s.setWords ws) (t.setWords ws) :=
  ⟨h.observed, by simpa using h.envelope, rfl⟩

theorem Indistinct.goto {pos : Pos} (h : SameRequest op s t) (hpos : SameLatches s t pos) :
    Indistinct (s.goto op pos) (t.goto op pos) := by
  refine ⟨h.observed.goto op pos, fun op' pos' hseq => ?_⟩
  obtain ⟨rfl, rfl⟩ := Seq.busy.inj hseq
  exact ⟨⟨h.observed.goto _ _, by simpa using h.envelope, h.words⟩, by cases pos <;> exact hpos⟩

/-- Once the request has returned, no latch is read any more. -/
theorem Indistinct.finish (h : SameBetweenRequests s t) (r : Reply) : Indistinct (s.finish r) (t.finish r) :=
  ⟨h.finish r, nofun⟩

theorem SameRequest.enterShiftOut (h : SameRequest op s t) (f : OutField) (length : Nat) :
    Indistinct (s.enterShiftOut op f.pos length) (t.enterShiftOut op f.pos length) :=
  .goto (h.setI _ _) ((sameLatches_outField _ _ f .di).mpr rfl)

theorem SameRequest.afterWords (h : SameRequest op s t) : Indistinct (s.afterWords op) (t.afterWords op) := by
  unfold State.afterWords
  rw [h.envelope]
  split
  · exact .goto (h.setPolls 0 0) rfl
  · exact .goto h trivial

theorem SameRequest.nextWord (h : SameRequest op s t) (k : Nat) : Indistinct (s.nextWord op k) (t.nextWord op k) := by
  unfold State.nextWord State.enterWord
  rw [h.envelope, h.observed.cfg_eq]
  split
  · exact .goto ((h.setAcc 0 0).setI _ _) ⟨rfl, rfl⟩
  · exact h.afterWords

theorem SameRequest.follow (h : SameRequest op s t) (f : OutField) : Indistinct (f.follow op s) (f.follow op t) := by
  cases f with
  | start =>
    simp only [OutField.follow, State.afterStart, h.envelope]
    exact h.enterShiftOut .command _
  | command =>
    simp only [OutField.follow, State.afterCommand, h.envelope]
    split
    · exact h.enterShiftOut .payload _
    · exact h.nextWord 0
  | payload => exact h.nextWord 0

theorem SameRequest.advance_outField (h : SameRequest op s t) (hi : s.i = t.i) (f : OutField) (p : OutPhase) :
    Indistinct (s.advance op (f.pos p)) (t.advance op (f.pos p)) := by
  have stay {u u' : State} (q : OutPhase) (hu : SameRequest op u u') (hiu : u.i = u'.i) :
      Indistinct (u.goto op (f.pos q)) (u'.goto op (f.pos q)) := .goto hu ((sameLatches_outField u u' f q).mpr hiu)
  rw [State.advance_outField, State.advance_outField, h.envelope]
  cases p with
  | di => simp only [State.shiftOutTick, hi]; exact stay .dly1 (h.drive _ _) hi
  | dly1 => exact stay .skHigh (h.delay _) hi
  | skHigh => exact stay .dly2 (h.drive _ _) hi
  | dly2 => exact stay .skLow (h.delay _) hi
  | skLow => exact stay .dly3 (h.drive _ _) hi
  | dly3 =>
    simp only [State.shiftOutTick, hi]
    split
    · exact (h.delay _).follow f
    · exact stay .di ((h.setI _ _).delay _) rfl

theorem SameRequest.advance_wordIn (h : SameRequest op s t) (hi : s.i = t.i) (hacc : s.acc = t.acc) (k : Nat)
    (p : InPhase) : Indistinct (s.advance op (.wordIn k p)) (t.advance op (.wordIn k p)) := by
  cases p with
  | skHigh => exact .goto (h.drive _ _) ⟨hi, hacc⟩
  | dly1 => exact .goto (h.delay _) ⟨hi, hacc⟩
  | sample => exact .goto (h.sample.setAcc _ _) ⟨hi, by simp [hi, hacc, h.observed.doIn_eq]⟩
  | skLow => exact .goto (h.drive _ _) ⟨hi, hacc⟩
  | dly2 =>
    simp only [State.advance, State.shiftInTick, hi, hacc, h.words]
    split
    · exact ((h.setWords _).delay _).nextWord (k + 1)
    · exact .goto ((h.setI _ _).delay _) ⟨rfl, hacc⟩

theorem SameRequest.pollFailed (h : SameRequest op s t) (hpolls : s.polls = t.polls) :
    Indistinct (s.pollFailed op) (t.pollFailed op) := by
  unfold State.pollFailed
  rw [h.observed.cfg_eq, hpolls]
  split
  · exact .goto h hpolls
  · split
    · exact .goto h trivial
    · exact .goto h hpolls

theorem SameRequest.advance_readyWait (h : SameRequest op s t) (hpolls : s.polls = t.polls) (p : PollPhase) :
    Indistinct (s.advance op (.readyWait p)) (t.advance op (.readyWait p)) := by
  cases p with
  | sample =>
    simp only [State.advance, State.pollTick, h.observed.doIn_eq]
    split
    · exact .goto h.sample trivial
    · exact h.sample.pollFailed hpolls
  | dly => exact .goto ((h.setPolls _ _).delay _) (congrArg (· + 1) hpolls)

theorem SameRequest.complete (h : SameRequest op s t) : Indistinct (s.complete op) (t.complete op) := by
  unfold State.complete
  rw [h.observed.wen_eq, State.result_congr op h.words]
  exact .finish (h.observed.setWen _) _

theorem SameRequest.advance {pos : Pos} (h : SameRequest op s t) (hpos : SameLatches s t pos) :
    Indistinct (s.advance op pos) (t.advance op pos) := by
  cases pos using Pos.casesByField with
  | csAssert => exact (h.delay _).enterShiftOut .start 1
  | out f p => exact h.advance_outField ((sameLatches_outField s t f p).mp hpos) f p
  | wordIn k p => exact h.advance_wordIn hpos.1 hpos.2 k p
  | readyWait p => exact h.advance_readyWait hpos p
  | csDeassert => exact (h.drive _ _).complete
  | timeoutDeassert limit => exact .finish (h.observed.drive _ _) _

/-- An accepted request loads every operand its envelope reads (10_state.md R15). -/
theorem envelope_loadOperands (hcfg : s.cfg = t.cfg) {i : Instr} (hop : opOf i = some op) :
    (loadOperands i s).envelope op = (loadOperands i t).envelope op := by
  cases i <;> cases hop <;>
    simp [loadOperands, State.envelope, enableWriteEnvelope, disableWriteEnvelope, eraseAllEnvelope, writeAllEnvelope,
      eraseEnvelope, writeEnvelope, readEnvelope, readSequentialEnvelope, hcfg]

theorem SameBetweenRequests.launch (h : SameBetweenRequests s t) {i : Instr} (hop : opOf i = some op) :
    Indistinct ((loadOperands i s).launch op) ((loadOperands i t).launch op) := by
  have hloaded : SameRequest op ((loadOperands i s).setWords []) ((loadOperands i t).setWords []) :=
    ⟨h.afterLoading i, by simp [envelope_loadOperands h.cfg_eq hop], rfl⟩
  exact .goto (hloaded.drive .cs true) trivial

theorem SameBetweenRequests.exec (h : SameBetweenRequests s t) (i : Instr) :
    sameOutcome Indistinct (exec i s) (exec i t) :=
  sameOutcome_exec h.seq_eq h.wen_eq (by rw [h.cfg_eq]) (fun _ => by rw [h.cfg_eq]) (.finish h)
    fun _ hop => h.launch hop

theorem Indistinct.step (h : Indistinct s t) : sameOutcome Indistinct (step s) (step t) :=
  sameOutcome_step h.1.seq_eq h.1.requests_eq h
    (fun op pos hs => by obtain ⟨hrequest, hpos⟩ := h.2 op pos hs; exact hrequest.advance hpos)
    fun _ i rest => (h.1.setRequests rest).exec i

end

/-- A weaker relation holds of outcomes wherever a stronger one does. -/
theorem sameOutcome_mono {R Q : State → State → Prop} (hRQ : ∀ {s t}, R s t → Q s t)
    {x y : Host.Outcome State Fault Refusal} (h : sameOutcome R x y) : sameOutcome Q x y := by
  cases x <;> cases y
  case next.next => exact hRQ h
  all_goals exact h

end Sys2Proof.Machine

open Sys2Proof Sys2Proof.Machine

/-- Settles O44: two idle engines that differ in transient latches only are indistinct, and every step keeps that. -/
theorem transientLatchesHoldNothingBetweenRequests : Obligations.TransientLatchesHoldNothingBetweenRequests := by
  intro n s t hs h
  have hidle : Indistinct s t := ⟨h, fun op pos hbusy => by simp [hs] at hbusy⟩
  exact sameOutcome_mono And.left (sameOutcome_stepN Indistinct.step n hidle)

end

section
/-!
PROOFS. Decoder and encoder as inverses (30_encoding.md): a frame number as its three fields, the record as its two
numbers, and both directions on them.
-/

namespace Sys2Proof

open Machine

/-- The frame number of an opcode field and the `aw` bits below it, the start bit on top (30_encoding.md R42). -/
def frameOfFields (aw code low : Nat) : Nat := (4 + code) * 2 ^ aw + low

section
variable {aw code low : Nat}

theorem bitsOf_eq (x hi lo : Nat) : bitsOf x hi lo = x / 2 ^ lo % 2 ^ (hi - lo + 1) := by
  rw [bitsOf, Nat.shiftRight_eq_div_pow]

theorem frameOfFields_div (hlow : low < 2 ^ aw) : frameOfFields aw code low / 2 ^ aw = 4 + code := by
  rw [frameOfFields, Nat.add_comm, Nat.add_mul_div_right _ _ (Nat.two_pow_pos aw), Nat.div_eq_of_lt hlow, Nat.zero_add]

theorem frameOfFields_mod (hlow : low < 2 ^ aw) : frameOfFields aw code low % 2 ^ aw = low :=
  Nat.mul_add_mod_of_lt hlow

theorem bitsOf_frameOfFields_opcode (hcode : code < 4) (hlow : low < 2 ^ aw) :
    bitsOf (frameOfFields aw code low) (aw + 1) aw = code := by
  rw [bitsOf_eq, frameOfFields_div hlow, show aw + 1 - aw + 1 = 2 by omega]
  omega

theorem bitsOf_frameOfFields_low (haw : 0 < aw) (hlow : low < 2 ^ aw) :
    bitsOf (frameOfFields aw code low) (aw - 1) 0 = low := by
  rw [bitsOf_eq, show aw - 1 - 0 + 1 = aw by omega, pow_zero, Nat.div_one, frameOfFields_mod hlow]

/-- The bits below a frame's `aw` bits are those of the field itself. -/
theorem bitsOf_frameOfFields_within {hi lo : Nat} (hhi : hi < aw) (hlo : lo ≤ hi) (hlow : low < 2 ^ aw) :
    bitsOf (frameOfFields aw code low) hi lo = bitsOf low hi lo := by
  refine Nat.eq_of_testBit_eq fun j => ?_
  simp only [bitsOf, Nat.testBit_mod_two_pow, Nat.testBit_shiftRight]
  by_cases hj : j < hi - lo + 1
  · conv_rhs => rw [← frameOfFields_mod (code := code) hlow, Nat.testBit_mod_two_pow]
    simp [show lo + j < aw by omega]
  · simp [hj]

theorem frameOfFields_shiftRight (hcode : code < 4) (hlow : low < 2 ^ aw) :
    frameOfFields aw code low >>> (aw + 2) = 1 := by
  rw [Nat.shiftRight_add, Nat.shiftRight_eq_div_pow _ aw, frameOfFields_div hlow, Nat.shiftRight_eq_div_pow]
  omega

/-- A number with its top set bit at `aw + 2` is the frame number of its fields. -/
theorem eq_frameOfFields_of_shiftRight {frame : Nat} (haw : 0 < aw) (h : frame >>> (aw + 2) = 1) :
    frame = frameOfFields aw (bitsOf frame (aw + 1) aw) (bitsOf frame (aw - 1) 0) := by
  rw [Nat.shiftRight_add, Nat.shiftRight_eq_div_pow _ aw, Nat.shiftRight_eq_div_pow] at h
  rw [bitsOf_eq, bitsOf_eq, show aw + 1 - aw + 1 = 2 by omega, show aw - 1 - 0 + 1 = aw by omega, pow_zero, Nat.div_one,
    frameOfFields, show 4 + frame / 2 ^ aw % 2 ^ 2 = frame / 2 ^ aw by omega]
  exact (Nat.div_add_mod' frame (2 ^ aw)).symm

/-- The place of the top set bit is at most one. -/
theorem shiftRight_eq_one_unique {x m n : Nat} (hm : x >>> m = 1) (hn : x >>> n = 1) : m = n := by
  have hlog {k : Nat} (h : x >>> k = 1) : Nat.log 2 x = k := by
    rw [Nat.shiftRight_eq_div_pow] at h
    have hpos : 0 < 2 ^ k := Nat.two_pow_pos k
    refine Nat.log_eq_of_pow_le_of_lt_pow ?_ ?_
    · exact (Nat.one_le_div_iff hpos).mp h.ge
    · have := (Nat.div_lt_iff_lt_mul hpos).mp (h ▸ Nat.one_lt_two : x / 2 ^ k < 2)
      rwa [pow_succ, Nat.mul_comm]
  exact (hlog hm).symm.trans (hlog hn)

theorem frameAddressWidth_eq_some_iff {frame : Nat} :
    frameAddressWidth frame = some aw ↔ aw ∈ [6, 7, 8, 9, 10, 11] ∧ frame >>> (aw + 2) = 1 := by
  unfold frameAddressWidth
  constructor
  · intro h
    exact ⟨List.mem_of_find?_eq_some h, by simpa using List.find?_some h⟩
  · rintro ⟨hmem, hframe⟩
    obtain ⟨aw', h⟩ := Option.isSome_iff_exists.mp
      ((List.find?_isSome (p := fun aw => frame >>> (aw + 2) == 1)).mpr ⟨aw, hmem, by simpa using hframe⟩)
    have hframe' : frame >>> (aw' + 2) = 1 := by simpa using List.find?_some h
    have := shiftRight_eq_one_unique hframe hframe'
    rw [h, show aw' = aw by omega]

end

/-- The opcode field of a request's frame (30_encoding.md R43); the frame of no bits has none. -/
def opcodeOf : Instr → Opcode
  | .enableWrite => .control
  | .disableWrite => .control
  | .isWriteEnabled => .control
  | .eraseAll => .control
  | .writeAll _ => .control
  | .erase _ => .erase
  | .write _ _ => .write
  | .read _ => .read
  | .readSequential _ _ => .read

/-- The `aw` bits below the opcode: the sub-command on top, or the address (30_encoding.md R45, R46). -/
def lowFieldOf (aw : Nat) : Instr → Nat
  | .enableWrite => SubCommand.enableWrite.code * 2 ^ (aw - 2)
  | .disableWrite => SubCommand.disableWrite.code * 2 ^ (aw - 2)
  | .isWriteEnabled => 0
  | .eraseAll => SubCommand.eraseAll.code * 2 ^ (aw - 2)
  | .writeAll _ => SubCommand.writeAll.code * 2 ^ (aw - 2)
  | .erase a => a.toNat
  | .write a _ => a.toNat
  | .read a => a.toNat
  | .readSequential a _ => a.toNat

theorem frameOf_encControl {aw : Nat} (haw : 2 ≤ aw) (sub : SubCommand) :
    frameOf (encControl aw sub) = frameOfFields aw Opcode.control.code (sub.code * 2 ^ (aw - 2)) := by
  have hlt := encControl_value_lt aw sub haw
  rw [frameOf, ← Nat.shiftLeft_add_eq_or_of_lt hlt, encControl_value, Nat.shiftLeft_eq, Nat.shiftLeft_eq]
  simp only [encControl, frameOfFields, Opcode.code, pow_add]
  ring

theorem maskInt_of_fits {x : Int} {n : Nat} (h : 0 ≤ x ∧ x < 2 ^ n) : maskInt x (2 ^ n - 1) = x.toNat := by
  rw [maskInt_toNat, Int.emod_eq_of_lt h.1 h.2]

theorem frameOf_encAddressed {aw : Nat} {addr : Int} (h : 0 ≤ addr ∧ addr < 2 ^ aw) (opc : Opcode) :
    frameOf (encAddressed aw (2 ^ aw - 1) opc addr) = frameOfFields aw opc.code addr.toNat := by
  have hlt := encAddressed_value_lt aw opc addr
  have haddr : addr.toNat < 2 ^ aw := maskInt_of_fits h ▸ maskInt_lt addr aw
  rw [frameOf, ← Nat.shiftLeft_add_eq_or_of_lt hlt]
  simp only [encAddressed, frameOfFields, maskInt_of_fits h]
  rw [← Nat.shiftLeft_add_eq_or_of_lt haddr, Nat.shiftLeft_eq, Nat.shiftLeft_eq, pow_add]
  ring

section
variable {org : Organization} {model : Model} {i : Instr}

theorem addressEncodable_iff {a : Int} :
    addressEncodable org model a = true ↔ 0 ≤ a ∧ a < 2 ^ addressWidth org model := decide_eq_true_iff

theorem valueEncodable_iff {v : Int} : valueEncodable org v = true ↔ 0 ≤ v ∧ v < 2 ^ wordWidth org := decide_eq_true_iff

theorem countEncodable_iff {n : Int} : countEncodable n = true ↔ 0 ≤ n ∧ n < 65535 := decide_eq_true_iff

/-- The frame number of every request with a frame, in its fields. -/
theorem frameNumber_eq (hi : i ≠ .isWriteEnabled) (h : encodable org model i = true) :
    frameNumber org model i =
      frameOfFields (addressWidth org model) (opcodeOf i).code (lowFieldOf (addressWidth org model) i) := by
  have haw : 2 ≤ addressWidth org model := le_trans (by decide) (addressWidth_ge org model)
  have haddressed {a : Int} (ha : addressEncodable org model a = true) (opc : Opcode) :
      frameOf (encAddressed (addressWidth org model) (addressMask org model) opc a) =
        frameOfFields (addressWidth org model) opc.code a.toNat := by
    rw [addressMask_eq]
    exact frameOf_encAddressed (addressEncodable_iff.mp ha) opc
  cases i with
  | enableWrite => exact frameOf_encControl haw _
  | disableWrite => exact frameOf_encControl haw _
  | isWriteEnabled => exact absurd rfl hi
  | eraseAll => exact frameOf_encControl haw _
  | writeAll v => exact frameOf_encControl haw _
  | erase a => exact haddressed h _
  | write a v => exact haddressed (Bool.and_eq_true_iff.mp h).1 _
  | read a => exact haddressed h _
  | readSequential a n => exact haddressed (Bool.and_eq_true_iff.mp h).1 _

/-- The field below an opcode is a sub-command's two bits and the filler. -/
theorem two_pow_eq_four_mul {aw : Nat} (haw : 2 ≤ aw) : 2 ^ aw = 2 ^ 2 * 2 ^ (aw - 2) := by
  rw [← pow_add]
  congr 1
  omega

theorem subCommand_field_lt (sub : SubCommand) {aw : Nat} (haw : 2 ≤ aw) : sub.code * 2 ^ (aw - 2) < 2 ^ aw := by
  have hsplit := two_pow_eq_four_mul haw
  rw [hsplit]
  exact Nat.mul_lt_mul_of_pos_right sub.code_lt_two_pow_two (Nat.two_pow_pos _)

theorem lowFieldOf_lt (h : encodable org model i = true) :
    lowFieldOf (addressWidth org model) i < 2 ^ addressWidth org model := by
  have haw : 2 ≤ addressWidth org model := le_trans (by decide) (addressWidth_ge org model)
  have haddressed {a : Int} (ha : addressEncodable org model a = true) : a.toNat < 2 ^ addressWidth org model := by
    rw [← maskInt_of_fits (addressEncodable_iff.mp ha)]
    exact maskInt_lt a _
  cases i with
  | isWriteEnabled => exact Nat.two_pow_pos _
  | erase a => exact haddressed h
  | write a v => exact haddressed (Bool.and_eq_true_iff.mp h).1
  | read a => exact haddressed h
  | readSequential a n => exact haddressed (Bool.and_eq_true_iff.mp h).1
  | _ => exact subCommand_field_lt _ haw

/-- The word width that goes with an address width is the organization's (40_geometry.md R57). -/
theorem widthOfAddressWidth_addressWidth (org : Organization) (model : Model) :
    widthOfAddressWidth (addressWidth org model) = wordWidth org := by cases org <;> cases model <;> rfl

theorem addressWidth_mem (org : Organization) (model : Model) : addressWidth org model ∈ [6, 7, 8, 9, 10, 11] := by
  cases org <;> cases model <;> decide

theorem encPayload_value {v : Int} (h : valueEncodable org v = true) :
    (encPayload (wordWidth org) v).value = v.toNat := maskInt_of_fits (valueEncodable_iff.mp h)

end

section
variable {aw code low operand : Nat}

theorem bitsOf_frameOfFields_filler (haw : 3 ≤ aw) (hlow : low < 2 ^ aw) :
    bitsOf (frameOfFields aw code low) (aw - 3) 0 = low % 2 ^ (aw - 2) := by
  rw [bitsOf_frameOfFields_within (by omega) (by omega) hlow, bitsOf_eq, show aw - 3 - 0 + 1 = aw - 2 by omega,
    pow_zero, Nat.div_one]

theorem bitsOf_frameOfFields_subCommand (haw : 2 ≤ aw) (hlow : low < 2 ^ aw) :
    bitsOf (frameOfFields aw code low) (aw - 1) (aw - 2) = low / 2 ^ (aw - 2) := by
  have hsplit := two_pow_eq_four_mul haw
  rw [bitsOf_frameOfFields_within (by omega) (by omega) hlow, bitsOf_eq, show aw - 1 - (aw - 2) + 1 = 2 by omega]
  exact Nat.mod_eq_of_lt ((Nat.div_lt_iff_lt_mul (Nat.two_pow_pos _)).mpr (hsplit ▸ hlow))

/-- The decoder on a control frame, by its filler and its sub-command (30_encoding.md R45). -/
theorem decodeControl_subCommand (sub : SubCommand) (haw : 3 ≤ aw) :
    decodeControl aw (frameOfFields aw code (sub.code * 2 ^ (aw - 2))) operand =
      match sub with
      | .disableWrite => plainRequest aw operand .disableWrite
      | .writeAll =>
        if operand < 2 ^ widthOfAddressWidth aw then .ok ⟨some aw, .writeAll operand⟩ else .error .payloadTooWide
      | .eraseAll => plainRequest aw operand .eraseAll
      | .enableWrite => plainRequest aw operand .enableWrite := by
  have hlow := subCommand_field_lt sub (show 2 ≤ aw by omega)
  rw [decodeControl, bitsOf_frameOfFields_filler haw hlow, bitsOf_frameOfFields_subCommand (by omega) hlow,
    Nat.mul_mod_left, Nat.mul_div_cancel _ (Nat.two_pow_pos _), if_neg (by simp)]
  cases sub <;> rfl

/-- A control frame that decodes has no bit below its sub-command set. -/
theorem low_eq_subCommand_of_decodeControl {d : Decoded} (haw : 3 ≤ aw) (hlow : low < 2 ^ aw)
    (h : decodeControl aw (frameOfFields aw code low) operand = .ok d) :
    ∃ sub : SubCommand, low = sub.code * 2 ^ (aw - 2) := by
  have hsplit := two_pow_eq_four_mul (show 2 ≤ aw by omega)
  have hfiller : low % 2 ^ (aw - 2) = 0 := by
    by_contra hne
    rw [decodeControl, bitsOf_frameOfFields_filler haw hlow, if_pos hne] at h
    cases h
  have hsub : low / 2 ^ (aw - 2) < 2 ^ 2 := (Nat.div_lt_iff_lt_mul (Nat.two_pow_pos _)).mpr (hsplit ▸ hlow)
  have hcode : ∃ sub : SubCommand, low / 2 ^ (aw - 2) = sub.code := by
    interval_cases low / 2 ^ (aw - 2)
    · exact ⟨.disableWrite, rfl⟩
    · exact ⟨.writeAll, rfl⟩
    · exact ⟨.eraseAll, rfl⟩
    · exact ⟨.enableWrite, rfl⟩
  obtain ⟨sub, hsub⟩ := hcode
  exact ⟨sub, by rw [← hsub, Nat.div_mul_cancel (Nat.dvd_of_mod_eq_zero hfiller)]⟩

/-- The decoder on a frame's fields (30_encoding.md R43, R46). -/
theorem decodeFrame_fields (opc : Opcode) (haw : 0 < aw) (hlow : low < 2 ^ aw) :
    decodeFrame aw (frameOfFields aw opc.code low) operand =
      match opc with
      | .control => decodeControl aw (frameOfFields aw opc.code low) operand
      | .write =>
        if operand < 2 ^ widthOfAddressWidth aw then .ok ⟨some aw, .write low operand⟩ else .error .payloadTooWide
      | .read =>
        match operand with
        | 0 => .ok ⟨some aw, .read low⟩
        | k + 1 => .ok ⟨some aw, .readSequential low k⟩
      | .erase => plainRequest aw operand (.erase low) := by
  have hcode : opc.code < 4 := opc.code_lt_two_pow_two
  simp only [decodeFrame, bitsOf_frameOfFields_opcode hcode hlow, bitsOf_frameOfFields_low haw hlow]
  cases opc <;> rfl

end

theorem plainRequest_eq_ok_iff {aw operand : Nat} {i : Instr} {d : Decoded} :
    plainRequest aw operand i = .ok d ↔ operand = 0 ∧ d = ⟨some aw, i⟩ := by
  unfold plainRequest
  split <;> simp [*, eq_comm]

section
variable {org : Organization} {model : Model} {i : Instr}

theorem toNat_lt_of_valueEncodable {v : Int} (h : valueEncodable org v = true) : v.toNat < 2 ^ wordWidth org :=
  encPayload_value h ▸ maskInt_lt v _

/-- The decoder on the fields of a request's frame and its operand number. -/
theorem decodeFrame_of_encodable (hi : i ≠ .isWriteEnabled) (h : encodable org model i = true) :
    decodeFrame (addressWidth org model)
        (frameOfFields (addressWidth org model) (opcodeOf i).code (lowFieldOf (addressWidth org model) i))
        (operandNumber org i) = .ok ⟨some (addressWidth org model), i⟩ := by
  have haw := addressWidth_ge org model
  have hvalue {v : Int} (hv : valueEncodable org v = true) :
      (encPayload (wordWidth org) v).value < 2 ^ widthOfAddressWidth (addressWidth org model) ∧
        ((encPayload (wordWidth org) v).value : Int) = v := by
    rw [widthOfAddressWidth_addressWidth, encPayload_value hv]
    exact ⟨toNat_lt_of_valueEncodable hv, Int.toNat_of_nonneg (valueEncodable_iff.mp hv).1⟩
  have haddr {a : Int} (ha : addressEncodable org model a = true) : (a.toNat : Int) = a :=
    Int.toNat_of_nonneg (addressEncodable_iff.mp ha).1
  rw [decodeFrame_fields _ (by omega) (lowFieldOf_lt h)]
  cases i with
  | enableWrite => exact decodeControl_subCommand .enableWrite (by omega)
  | disableWrite => exact decodeControl_subCommand .disableWrite (by omega)
  | isWriteEnabled => exact absurd rfl hi
  | eraseAll => exact decodeControl_subCommand .eraseAll (by omega)
  | writeAll v =>
    obtain ⟨hlt, hv⟩ := hvalue h
    refine (decodeControl_subCommand .writeAll (by omega)).trans ?_
    simp only [operandNumber, if_pos hlt, hv]
  | erase a => simp [opcodeOf, lowFieldOf, operandNumber, plainRequest, haddr h]
  | write a v =>
    obtain ⟨ha, hv⟩ := Bool.and_eq_true_iff.mp h
    obtain ⟨hlt, hv⟩ := hvalue hv
    simp only [opcodeOf, lowFieldOf, operandNumber, if_pos hlt, hv, haddr ha]
  | read a => simp [opcodeOf, lowFieldOf, operandNumber, haddr h]
  | readSequential a n =>
    obtain ⟨ha, hn⟩ := Bool.and_eq_true_iff.mp h
    simp [opcodeOf, lowFieldOf, operandNumber, haddr ha, (countEncodable_iff.mp hn).1]

end

/-- What a decoded request has: the fields and the operand number it was read from, and operands that fit. -/
structure ReadFrom (org : Organization) (model : Model) (code low operand : Nat) (i : Instr) : Prop where
  ne_isWriteEnabled : i ≠ .isWriteEnabled
  opcode : (opcodeOf i).code = code
  lowField : lowFieldOf (addressWidth org model) i = low
  operandNumber : operandNumber org i = operand
  encodable : encodable org model i = true

section
variable {org : Organization} {model : Model} {low operand : Nat} {d : Decoded}

theorem addressEncodable_natCast (h : low < 2 ^ addressWidth org model) :
    addressEncodable org model (low : Int) = true := addressEncodable_iff.mpr ⟨by omega, by exact_mod_cast h⟩

theorem valueEncodable_natCast (h : operand < 2 ^ wordWidth org) : valueEncodable org (operand : Int) = true :=
  valueEncodable_iff.mpr ⟨by omega, by exact_mod_cast h⟩

theorem encPayload_value_natCast (h : operand < 2 ^ wordWidth org) :
    (encPayload (wordWidth org) (operand : Int)).value = operand := encPayload_value (valueEncodable_natCast h)

theorem readFrom_of_decodeControl {sub : SubCommand}
    (h : decodeControl (addressWidth org model)
      (frameOfFields (addressWidth org model) Opcode.control.code (sub.code * 2 ^ (addressWidth org model - 2)))
        operand = .ok d) :
    d.aw = some (addressWidth org model) ∧
      ReadFrom org model Opcode.control.code (sub.code * 2 ^ (addressWidth org model - 2)) operand d.instr := by
  have haw := addressWidth_ge org model
  rw [decodeControl_subCommand sub (by omega)] at h
  cases sub with
  | writeAll =>
    rw [widthOfAddressWidth_addressWidth] at h
    simp only at h
    split at h
    next hlt =>
      cases h
      exact ⟨rfl, nofun, rfl, rfl, encPayload_value_natCast hlt, valueEncodable_natCast hlt⟩
    next => cases h
  | _ =>
    obtain ⟨rfl, rfl⟩ := plainRequest_eq_ok_iff.mp h
    exact ⟨rfl, nofun, rfl, rfl, rfl, rfl⟩

theorem readFrom_of_decodeFrame {opc : Opcode} (hlow : low < 2 ^ addressWidth org model) (hoperand : operand < 65536)
    (h : decodeFrame (addressWidth org model) (frameOfFields (addressWidth org model) opc.code low) operand = .ok d) :
    d.aw = some (addressWidth org model) ∧ ReadFrom org model opc.code low operand d.instr := by
  have haw := addressWidth_ge org model
  have ha := addressEncodable_natCast hlow
  rw [decodeFrame_fields opc (by omega) hlow, widthOfAddressWidth_addressWidth] at h
  cases opc with
  | control =>
    obtain ⟨sub, rfl⟩ := low_eq_subCommand_of_decodeControl (by omega) hlow h
    exact readFrom_of_decodeControl h
  | write =>
    simp only at h
    split at h
    next hlt =>
      cases h
      exact ⟨rfl, nofun, rfl, rfl, encPayload_value_natCast hlt,
        Bool.and_eq_true_iff.mpr ⟨ha, valueEncodable_natCast hlt⟩⟩
    next => cases h
  | read =>
    cases operand with
    | zero => cases h; exact ⟨rfl, nofun, rfl, rfl, rfl, ha⟩
    | succ k =>
      cases h
      exact ⟨rfl, nofun, rfl, rfl, rfl,
        Bool.and_eq_true_iff.mpr ⟨ha, countEncodable_iff.mpr ⟨by omega, by omega⟩⟩⟩
  | erase =>
    obtain ⟨rfl, rfl⟩ := plainRequest_eq_ok_iff.mp h
    exact ⟨rfl, nofun, rfl, rfl, rfl, ha⟩

end

section
variable {org : Organization} {model : Model} {i : Instr} {frame operand : Nat} {d : Decoded}

theorem decodeNumbers_of_encodable (h : encodable org model i = true) :
    ∃ aw, decodeNumbers (frameNumber org model i) (operandNumber org i) = .ok ⟨aw, i⟩ ∧
      (i ≠ .isWriteEnabled → aw = some (addressWidth org model)) := by
  by_cases hi : i = .isWriteEnabled
  · subst hi
    exact ⟨none, rfl, fun hne => absurd rfl hne⟩
  · have hshift := frameOfFields_shiftRight (opcodeOf i).code_lt_two_pow_two (lowFieldOf_lt h)
    have hwidth := frameAddressWidth_eq_some_iff.mpr ⟨addressWidth_mem org model, hshift⟩
    have hne : frameNumber org model i ≠ 0 := fun hzero => by
      rw [← frameNumber_eq hi h, hzero, Nat.zero_shiftRight] at hshift
      cases hshift
    refine ⟨some (addressWidth org model), ?_, fun _ => rfl⟩
    rw [decodeNumbers, if_neg hne, frameNumber_eq hi h, hwidth]
    exact decodeFrame_of_encodable hi h

/-- What two numbers that decode are: no frame and no operand, or a frame of one of the six address widths. -/
theorem decodeNumbers_cases (h : decodeNumbers frame operand = .ok d) :
    (frame = 0 ∧ operand = 0 ∧ d = ⟨none, .isWriteEnabled⟩) ∨
      ∃ aw, frameAddressWidth frame = some aw ∧ decodeFrame aw frame operand = .ok d := by
  unfold decodeNumbers at h
  split at h
  next hzero =>
    split at h
    next hop => cases h; exact .inl ⟨hzero, hop, rfl⟩
    next => cases h
  next =>
    split at h
    next => cases h
    next aw haw => exact .inr ⟨aw, haw, h⟩

theorem exists_opcode {code : Nat} (h : code < 4) : ∃ opc : Opcode, opc.code = code := by
  interval_cases code
  · exact ⟨.control, rfl⟩
  · exact ⟨.write, rfl⟩
  · exact ⟨.read, rfl⟩
  · exact ⟨.erase, rfl⟩

/-- Every frame of an address width is the frame of fields that width holds. -/
theorem exists_fields_of_frameAddressWidth {aw : Nat} (h : frameAddressWidth frame = some aw) :
    ∃ opc : Opcode, ∃ low, frame = frameOfFields aw opc.code low ∧ low < 2 ^ aw := by
  obtain ⟨hmem, hshift⟩ := frameAddressWidth_eq_some_iff.mp h
  have haw : 0 < aw := by simp only [List.mem_cons, List.not_mem_nil, or_false] at hmem; omega
  have hcode : bitsOf frame (aw + 1) aw < 4 := by
    rw [bitsOf_eq, show aw + 1 - aw + 1 = 2 by omega]
    exact Nat.mod_lt _ (by decide)
  have hlow : bitsOf frame (aw - 1) 0 < 2 ^ aw := by
    rw [bitsOf_eq, show aw - 1 - 0 + 1 = aw by omega]
    exact Nat.mod_lt _ (Nat.two_pow_pos aw)
  obtain ⟨opc, hopc⟩ := exists_opcode hcode
  exact ⟨opc, _, hopc ▸ eq_frameOfFields_of_shiftRight haw hshift, hlow⟩

/-- A chip for every address width a frame can have (40_geometry.md R57). -/
theorem exists_addressWidth_eq {aw : Nat} (h : aw ∈ [6, 7, 8, 9, 10, 11]) :
    ∃ org model, addressWidth org model = aw := by
  fin_cases h
  · exact ⟨.org16, .m46, rfl⟩
  · exact ⟨.org8, .m46, rfl⟩
  · exact ⟨.org16, .m56, rfl⟩
  · exact ⟨.org8, .m56, rfl⟩
  · exact ⟨.org16, .m76, rfl⟩
  · exact ⟨.org8, .m76, rfl⟩

/-- The address width a decoded request shows is the frame's (30_encoding.md R42). -/
theorem aw_of_decodeFrame {aw : Nat} (haw : frameAddressWidth frame = some aw) (hoperand : operand < 65536)
    (h : decodeFrame aw frame operand = .ok d) : d.aw = some aw := by
  obtain ⟨opc, low, rfl, hlow⟩ := exists_fields_of_frameAddressWidth haw
  obtain ⟨org, model, rfl⟩ := exists_addressWidth_eq (frameAddressWidth_eq_some_iff.mp haw).1
  exact (readFrom_of_decodeFrame hlow hoperand h).1

theorem aw_mem_of_decodeNumbers {aw : Nat} (hoperand : operand < 65536) (h : decodeNumbers frame operand = .ok d)
    (haw : d.aw = some aw) : aw ∈ [6, 7, 8, 9, 10, 11] := by
  obtain ⟨-, -, rfl⟩ | ⟨aw', hwidth, hframe⟩ := decodeNumbers_cases h
  · cases haw
  · obtain rfl := Option.some.inj (haw.symm.trans (aw_of_decodeFrame hwidth hoperand hframe))
    exact (frameAddressWidth_eq_some_iff.mp hwidth).1

theorem numbers_of_decodeNumbers (hoperand : operand < 65536) (h : decodeNumbers frame operand = .ok d)
    (hchip : ∀ aw, d.aw = some aw → addressWidth org model = aw) :
    frameNumber org model d.instr = frame ∧ operandNumber org d.instr = operand ∧
      encodable org model d.instr = true := by
  obtain ⟨rfl, rfl, rfl⟩ | ⟨aw, hwidth, hframe⟩ := decodeNumbers_cases h
  · exact ⟨rfl, rfl, rfl⟩
  · obtain rfl := hchip aw (aw_of_decodeFrame hwidth hoperand hframe)
    obtain ⟨opc, low, rfl, hlow⟩ := exists_fields_of_frameAddressWidth hwidth
    obtain ⟨-, hread⟩ := readFrom_of_decodeFrame hlow hoperand hframe
    refine ⟨?_, hread.operandNumber, hread.encodable⟩
    rw [frameNumber_eq hread.ne_isWriteEnabled hread.encodable, hread.opcode, hread.lowField]

end

/-! The record's bytes (log 14). -/

theorem numberOfBytes_lt (lo hi : Byte) : numberOfBytes lo hi < 65536 := by
  have := lo.isLt
  have := hi.isLt
  unfold numberOfBytes
  omega

theorem bytesOfNumber_numberOfBytes (lo hi : Byte) : bytesOfNumber (numberOfBytes lo hi) = [lo, hi] := by
  have := lo.isLt
  have := hi.isLt
  have hlo : BitVec.ofNat 8 (numberOfBytes lo hi) = lo :=
    BitVec.eq_of_toNat_eq (by rw [BitVec.toNat_ofNat, numberOfBytes]; omega)
  have hhi : BitVec.ofNat 8 (numberOfBytes lo hi / 256) = hi :=
    BitVec.eq_of_toNat_eq (by rw [BitVec.toNat_ofNat, numberOfBytes]; omega)
  rw [bytesOfNumber, hlo, hhi]

theorem numberOfBytes_ofNat {x : Nat} (h : x < 65536) :
    numberOfBytes (BitVec.ofNat 8 x) (BitVec.ofNat 8 (x / 256)) = x := by
  rw [numberOfBytes, BitVec.toNat_ofNat, BitVec.toNat_ofNat]
  omega

theorem decode_bytesOfNumber {frame operand : Nat} {d : Decoded} (hframe : frame < 65536) (hoperand : operand < 65536)
    (rest : List Byte) (h : decodeNumbers frame operand = .ok d) :
    decode (bytesOfNumber frame ++ bytesOfNumber operand ++ rest) = .ok (d, rest) := by
  simp [bytesOfNumber, decode, numberOfBytes_ofNat hframe, numberOfBytes_ofNat hoperand, h]

/-- Bytes that decode are a record of two numbers, and what follows it. -/
theorem decode_eq_ok {bytes rest : List Byte} {d : Decoded} (h : decode bytes = .ok (d, rest)) :
    ∃ frame operand, operand < 65536 ∧ bytes = bytesOfNumber frame ++ bytesOfNumber operand ++ rest ∧
      decodeNumbers frame operand = .ok d := by
  unfold decode at h
  split at h
  next b0 b1 b2 b3 rest' =>
    split at h
    next d' hd =>
      cases h
      exact ⟨_, _, numberOfBytes_lt b2 b3, by simp [bytesOfNumber_numberOfBytes], hd⟩
    next => cases h
  next => cases h

section
variable {org : Organization} {model : Model} {i : Instr}

theorem frameOfFields_lt {aw code low : Nat} (haw : aw ≤ 11) (hcode : code < 4) (hlow : low < 2 ^ aw) :
    frameOfFields aw code low < 65536 := by
  have hpow : 2 ^ aw ≤ 2 ^ 11 := Nat.pow_le_pow_right (by decide) haw
  have hmul : (4 + code) * 2 ^ aw ≤ 7 * 2 ^ aw := Nat.mul_le_mul_right _ (by omega)
  unfold frameOfFields
  omega

theorem frameNumber_lt (h : encodable org model i = true) : frameNumber org model i < 65536 := by
  by_cases hi : i = .isWriteEnabled
  · subst hi
    exact Nat.two_pow_pos 16
  · have haw : addressWidth org model ≤ 11 := by cases org <;> cases model <;> decide
    rw [frameNumber_eq hi h]
    exact frameOfFields_lt haw (opcodeOf i).code_lt_two_pow_two (lowFieldOf_lt h)

theorem operandNumber_lt (h : encodable org model i = true) : operandNumber org i < 65536 := by
  have hwidth (o : Organization) : 2 ^ wordWidth o ≤ 65536 := by cases o <;> decide
  have hvalue (v : Int) : (encPayload (wordWidth org) v).value < 65536 := (maskInt_lt v _).trans_le (hwidth org)
  cases i with
  | writeAll v => exact hvalue v
  | write a v => exact hvalue v
  | readSequential a n =>
    have hcount := countEncodable_iff.mp (Bool.and_eq_true_iff.mp h).2
    simp only [operandNumber]
    omega
  | _ => exact Nat.two_pow_pos 16

end

end Sys2Proof

open Sys2Proof Sys2Proof.Machine

/-- Settles O48: the record's bytes are its two numbers, and those decode by their fields. -/
theorem decodingAnEncodedRequestGivesItBack : Obligations.DecodingAnEncodedRequestGivesItBack := by
  intro org model i rest h
  obtain ⟨aw, hd, haw⟩ := decodeNumbers_of_encodable h
  exact ⟨aw, decode_bytesOfNumber (frameNumber_lt h) (operandNumber_lt h) rest hd, haw⟩

/-- Settles O49: a frame that decodes is the frame of its request's fields, and the record's bytes are its numbers'. -/
theorem encodingADecodedRequestGivesTheBytesBack : Obligations.EncodingADecodedRequestGivesTheBytesBack := by
  intro bytes rest d org model h hchip
  obtain ⟨frame, operand, hoperand, rfl, hd⟩ := decode_eq_ok h
  obtain ⟨hf, ho, henc⟩ := numbers_of_decodeNumbers hoperand hd hchip
  exact ⟨by rw [encode, hf, ho], henc⟩

namespace Sys2Proof.Machine

theorem chipOfAddressWidth_addressWidth {aw : Nat} (h : aw ∈ [6, 7, 8, 9, 10, 11]) :
    addressWidth (chipOfAddressWidth aw).1 (chipOfAddressWidth aw).2 = aw := by
  fin_cases h <;> rfl

/-- The configuration a frame is placed with has the frame's address width (log 16). -/
theorem configurationFor_aw (c : Configuration) {aw : Nat} (h : aw ∈ [6, 7, 8, 9, 10, 11]) :
    (configurationFor c (some aw)).aw = aw := by
  simp only [configurationFor]
  split
  next hc => exact hc
  next => exact chipOfAddressWidth_addressWidth h

theorem configurationFor_eq_self {c : Configuration} {width : Option Nat} (h : ∀ aw, width = some aw → c.aw = aw) :
    configurationFor c width = c := by
  cases width with
  | none => rfl
  | some aw => exact if_pos (h aw rfl)

/-- A placed request is the next to run (log 16). -/
theorem step_place (s : State) (d : Decoded) :
    step (s.place d) = exec d.instr { s with cfg := configurationFor s.cfg d.aw, seq := .idle } :=
  step_idle_some rfl (HostCalls.next_push s.requests d.instr)

end Sys2Proof.Machine

open Sys2Proof Sys2Proof.Machine

/-- Settles O46: a frame that decodes has one of the six address widths, and the placed request is first in the
queue. -/
theorem placedWordRunsNext : Obligations.PlacedWordRunsNext := by
  intro s nbits w d rest h
  obtain ⟨frame, operand, hoperand, -, hd⟩ := decode_eq_ok h
  refine ⟨by simp only [decodeTableWord, h], fun aw haw => ?_, configurationFor_eq_self, ?_⟩
  · rw [haw]
    exact configurationFor_aw s.cfg (aw_mem_of_decodeNumbers hoperand hd haw)
  · rw [State.withFetchWord, h]
    exact step_place s d

/-- Settles O47: the decoder evaluated on the eight words. -/
theorem writtenOutFramesDecode : Obligations.WrittenOutFramesDecode := by
  unfold Obligations.WrittenOutFramesDecode
  decide

end

section
/-!
PROOFS. Geometry and construction (40_geometry.md, 70_reset_and_hazards.md section 1), operand fields (41_encoder.md),
and what the acceptance of a request answers.
-/

namespace Sys2Proof.Machine

/-- An integer masked to a field is the integer modulo the field (decision D9). -/
theorem natCast_maskInt (x : Int) (n : Nat) : (maskInt x (2 ^ n - 1) : Int) = x % 2 ^ n := by
  rw [maskInt_toNat, Int.toNat_of_nonneg (Int.emod_nonneg x (by positivity))]

/-- An address in range fits the operand field (40_geometry.md section 4). -/
theorem lt_two_pow_of_addressInRange {c : Configuration} {addr : Int} (h : addressInRange c addr = true) :
    0 ≤ addr ∧ addr < 2 ^ c.aw := by
  obtain ⟨hlow, hhigh⟩ := (addressInRange_eq_true_iff c addr).mp h
  exact ⟨hlow, hhigh.trans_le (by exact_mod_cast c.wc_le)⟩

/-- A construction that succeeds has valid arguments, and gives the constructed engine. -/
theorem construct_eq_next {model org : Int} {tCS tW tR tP : Nat} {s : State}
    (h : construct model org tCS tW tR tP = .next s) :
    ∃ m o, organizationOf org = some o ∧ modelOf model = some m ∧
      s = State.constructed
        { model := m, org := o, tCS := tCS, tW := tW, tR := tR, tP := tP, readyLimit := none,
          guardOrder := .latchFirst } := by
  unfold construct validateArguments at h
  cases horg : organizationOf org with
  | none => simp [horg] at h
  | some o =>
    cases hmodel : modelOf model with
    | none => simp [horg, hmodel] at h
    | some m =>
      simp only [horg, hmodel] at h
      exact ⟨m, o, rfl, rfl, (Host.Outcome.next.inj h).symm⟩

/-- A request whose guards pass answers its launch with the operands loaded. -/
theorem exec_eq_launch {i : Instr} {op : Op} {s : State} (hs : s.seq = .idle) (hop : opOf i = some op)
    (hi : i.wellFormed = true) (hguard : op.guarded = true → s.wen = true)
    (hrange : op.addressed = true → addressInRange s.cfg (loadOperands i s).a = true) :
    exec i s = .next ((loadOperands i s).launch op) := by
  have hlatch (hwen : s.wen = true) (body : State) : whenIdle s (s.latchGuard body) = .next body :=
    (whenIdle_of_idle hs _).trans (by rw [State.latchGuard, if_pos hwen])
  have hvalid {addr : Int} (hin : addressInRange s.cfg addr = true) (body : State) :
      whenIdle s (s.validate addr body) = .next body :=
    (whenIdle_of_idle hs _).trans (by rw [State.validate_of_inRange hin])
  have hboth {addr : Int} (hwen : s.wen = true) (hin : addressInRange s.cfg addr = true) (body : State) :
      whenIdle s (s.guardAndValidate addr body) = .next body := by
    rw [State.guardAndValidate_of_enabled hwen]
    exact hvalid hin body
  cases i with
  | isWriteEnabled => cases hop
  | enableWrite => cases hop; exact whenIdle_of_idle hs _
  | disableWrite => cases hop; exact whenIdle_of_idle hs _
  | eraseAll => cases hop; exact hlatch (hguard rfl) _
  | writeAll value => cases hop; exact hlatch (hguard rfl) _
  | erase addr => cases hop; exact hboth (hguard rfl) (hrange rfl) _
  | write addr value => cases hop; exact hboth (hguard rfl) (hrange rfl) _
  | read addr => cases hop; exact hvalid (hrange rfl) _
  | readSequential addr count =>
    cases hop
    exact (if_pos (of_decide_eq_true hi)).trans (hvalid (hrange rfl) _)

end Sys2Proof.Machine

open Sys2Proof Sys2Proof.Machine

/-- Settles O1: the resolver evaluated on the ten configurations. -/
theorem tenConfigurationsHaveTheListedGeometry : Obligations.TenConfigurationsHaveTheListedGeometry := by
  unfold Obligations.TenConfigurationsHaveTheListedGeometry
  decide

/-- Settles O2: the mask is all ones over AW bits, and the word count is at most 2^AW. -/
theorem maskNeverClipsALegalAddress : Obligations.MaskNeverClipsALegalAddress := by
  intro c addr h
  have hfits := lt_two_pow_of_addressInRange h
  rw [c.am_eq, maskInt_of_fits hfits]
  exact ⟨Int.toNat_of_nonneg hfits.1, hfits.2⟩

/-- Settles O7: both masks are all ones over their fields. -/
theorem operandsAreReducedModuloTheirFields : Obligations.OperandsAreReducedModuloTheirFields := by
  intro c x
  rw [c.am_eq]
  exact ⟨natCast_maskInt x c.w, rfl, natCast_maskInt x c.aw⟩

/-- Settles O4: a construction that succeeds gives the constructed engine of its arguments. -/
theorem constructedEngineIsIdleDisabledAndSilent : Obligations.ConstructedEngineIsIdleDisabledAndSilent := by
  refine ⟨fun model org tCS tW tR tP s h => ?_, rfl⟩
  obtain ⟨m, o, horg, hmodel, rfl⟩ := construct_eq_next h
  exact ⟨horg, hmodel, rfl, rfl, rfl, rfl, rfl, rfl, rfl, rfl, rfl, rfl, rfl, rfl⟩

/-- Settles O26: an acceptance whose guards pass is the launch with the operands loaded, which drives CS high. -/
theorem acceptedRequestRaisesChipSelect : Obligations.AcceptedRequestRaisesChipSelect := by
  intro s addr value count hs up
  refine ⟨exec_eq_launch hs rfl rfl nofun nofun, exec_eq_launch hs rfl rfl nofun nofun, fun hwen => ⟨?_, ?_⟩,
    fun hin => ⟨?_, ?_, fun hwen => ⟨?_, ?_⟩⟩⟩
  · exact exec_eq_launch hs rfl rfl (fun _ => hwen) nofun
  · exact exec_eq_launch (i := .writeAll value) hs rfl rfl (fun _ => hwen) nofun
  · exact exec_eq_launch (i := .read addr) hs rfl rfl nofun fun _ => hin
  · exact exec_eq_launch (i := .readSequential addr count) hs rfl (decide_eq_true (Int.natCast_nonneg count)) nofun
      fun _ => hin
  · exact exec_eq_launch (i := .erase addr) hs rfl rfl (fun _ => hwen) fun _ => hin
  · exact exec_eq_launch (i := .write addr value) hs rfl rfl (fun _ => hwen) fun _ => hin

/-- Settles O29: in the address-first order the range check is the first guard, and it fails. -/
theorem addressFirstOrderReportsTheError : Obligations.AddressFirstOrderReportsTheError := by
  intro s addr value i hs horder hout hi
  have hguards (body : State) : whenIdle s (s.guardAndValidate addr body) =
      .next { s with replies := s.replies ++ [.error (.addressOutOfRange addr)] } := by
    rw [whenIdle_of_idle hs, State.guardAndValidate, horder]
    exact congrArg Host.Outcome.next (State.validate_of_outOfRange hs hout _)
  obtain rfl | rfl := hi
  · exact hguards _
  · exact hguards _

/-- Settles O32: the meaning refuses a negative count before anything else. -/
theorem negativeCountIsRefused : Obligations.NegativeCountIsRefused :=
  fun _ _ _ h => if_neg (not_le.mpr h)

end

section
/-!
PROOFS. The micro-operations (42_transport.md sections 1 to 5) and the whole envelope (section 6) as the statements
about them ask.
-/

namespace Sys2Proof.Machine

theorem State.nextWord_goto (s : State) (o : Op) (p : Pos) (op : Op) (k : Nat) :
    (s.goto o p).nextWord op k = s.nextWord op k := by
  unfold State.nextWord
  rw [State.envelope_goto, State.afterWords_goto]
  rfl

/-- What follows a field does not read where the sequencer was. -/
theorem OutField.follow_goto (f : OutField) (s : State) (o : Op) (p : Pos) (op : Op) :
    f.follow op (s.goto o p) = f.follow op s := by
  cases f with
  | start => simp only [OutField.follow, State.afterStart, State.envelope_goto]; rfl
  | command =>
    simp only [OutField.follow, State.afterCommand, State.envelope_goto, State.nextWord_goto]
    split <;> rfl
  | payload => exact s.nextWord_goto o p op 0

/-- n failed polls within the opted-in limit (42_transport.md R66, R69). -/
theorem stepN_failedPolls {s : State} {op : Op} {n : Nat} (h : s.seq = .busy op (.readyWait .sample))
    (hz : ∀ j, j < n → s.doIn.nth j = false) (hl : LimitAllows s.cfg (s.polls + n)) (k : Nat) :
    stepN (2 * n + k) s =
      stepN k { s with
        polls := s.polls + n, doIn := s.doIn.after n, trace := s.trace ++ failedPolls s.cfg n } := by
  induction n generalizing s with
  | zero => simp [failedPolls]
  | succ n ih =>
    have hlt : ∀ limit, s.cfg.readyLimit = some limit → s.polls < limit := fun l hq => by
      have := hl l hq
      omega
    rw [show 2 * (n + 1) + k = 2 + (2 * n + k) by omega, stepN_failedPoll h (hz 0 (Nat.succ_pos n)) hlt,
      ih (by exact h) (fun j hj => hz (j + 1) (Nat.succ_lt_succ hj))
        (by rw [Nat.add_assoc, Nat.add_comm 1 n]; exact hl)]
    refine congrArg (stepN k) ?_
    ext1 <;> simp [failedPolls]
    omega

/-- The bounded ready-wait that runs out of its limit (42_transport.md R69). -/
theorem stepN_timeout {s : State} {op : Op} {limit : Nat} (h : s.seq = .busy op (.readyWait .sample))
    (hp : s.polls = 0) (hl : s.cfg.readyLimit = some limit) (hz : ∀ j, j ≤ limit → s.doIn.nth j = false) :
    stepN (2 * limit + 2) s = .next { s with
      seq := .idle, cs := .low, polls := limit, doIn := s.doIn.after (limit + 1),
      trace := s.trace ++ failedPolls s.cfg limit ++ [.smp false, .drive .cs false],
      replies := s.replies ++ [.error (.hardwareTimeout limit)] } := by
  have hallows : LimitAllows s.cfg (s.polls + limit) := fun l hq => by
    rw [hp, Nat.zero_add, Option.some.inj (hl.symm.trans hq)]
  have hlast : (s.doIn.after limit).bit = false := hz limit le_rfl
  rw [stepN_failedPolls h (fun j hj => hz j hj.le) hallows]
  refine (stepN_busy (op := op) (pos := .readyWait .sample) (by exact h) 1).trans ?_
  simp only [State.advance, State.pollTick, hlast, Bool.false_eq_true, if_false, State.pollFailed, State.sample_cfg, hl,
    State.sample_polls, hp, Nat.zero_add, if_true]
  refine (stepN_busy (State.goto_seq _ _ _) 0).trans (congrArg Host.Outcome.next ?_)
  ext1 <;> simp [State.advance, hlast, DoInput.after_next]

/-- An envelope with incoming words has neither a payload nor a wait (42_transport.md R70). -/
theorem State.envelope_inWords (s : State) (op : Op) (h : (s.envelope op).inWords ≠ 0) :
    (s.envelope op).payload = none ∧ (s.envelope op).wait = false := by
  cases op with
  | read => exact ⟨rfl, rfl⟩
  | readSequential => exact ⟨rfl, rfl⟩
  | _ => exact absurd rfl h

end Sys2Proof.Machine

open Sys2Proof Sys2Proof.Machine

/-- Settles O8: a shift-out of m bits reads the m low bits only. -/
theorem shiftOutNeverReadsHigherBits : Obligations.ShiftOutNeverReadsHigherBits := by
  intro c value m
  rw [shiftOutTrace_eq_outBits, shiftOutTrace_eq_outBits]
  refine congrArg (outBits c) (msbFirst_congr fun j hj => ?_)
  rw [Nat.testBit_mod_two_pow, decide_eq_true hj, Bool.true_and]

/-- Settles O9: the six steps of a bit, the last one or another. -/
theorem shiftedOutBitIsItsSixEvents : Obligations.ShiftedOutBitIsItsSixEvents := by
  intro s op f hs b u
  cases hi : s.i with
  | zero =>
    rw [if_pos rfl, ← OutField.follow_goto f u op (f.pos .dly3)]
    refine (stepN_outCell_zero hs hi 0).trans (congrArg (fun t => Host.Outcome.next (f.follow op t)) ?_)
    ext1 <;> simp [State.shiftedOut, shiftOutTrace, hi, u, b]
  | succ m =>
    rw [if_neg (Nat.succ_ne_zero m)]
    refine (stepN_outCell_succ hs hi 0).trans (congrArg Host.Outcome.next ?_)
    ext1 <;> simp [u, b, hi]

/-- Settles O10: the five steps of a bit that is not the last. -/
theorem shiftedInBitIsItsFiveEvents : Obligations.ShiftedInBitIsItsFiveEvents :=
  fun _ _ _ _ hs hi => stepN_inCell_succ hs hi 0

/-- Settles O11: the first sample is shifted to the top, each later one below it. -/
theorem shiftedInWordHoldsItsSamples : Obligations.ShiftedInWordHoldsItsSamples := by
  intro d len j hlen
  rw [getLsbD_shiftInWord d hlen]
  split_ifs with hj <;> simp [hj]

/-- Settles O12: k failed polls and one that succeeds. -/
theorem readyWaitEndsAtTheFirstOne : Obligations.ReadyWaitEndsAtTheFirstOne := by
  intro s op k hs hp hready hlimit
  have hrun := stepN_readyWait hs hready (by rwa [hp, Nat.zero_add]) 0
  rwa [hp, Nat.zero_add] at hrun

/-- Settles O14: `limit` failed polls, one more sample, and the deassertion of CS. -/
theorem boundedReadyWaitTimesOut : Obligations.BoundedReadyWaitTimesOut :=
  fun _ _ _ hs hp hl hz => stepN_timeout hs hp hl hz

/-- Settles O15: the run of the whole envelope from the acceptance on. -/
theorem steppingRefinesTheEnvelopeProcedure : Obligations.SteppingRefinesTheEnvelopeProcedure :=
  fun s op k => ⟨s.envelope_inWords op, stepN_envelope s op k⟩

end

section
/-!
PROOFS. The requests that wait (43_control_ops.md section 2, 44_addressed_ops.md section 2): the bits their envelopes
send, and the three ends of the wait.
-/

namespace Sys2Proof.Machine

theorem msbFirst_length (m x : Nat) : (msbFirst m x).length = m := by
  induction m with
  | zero => rfl
  | succ m ih => rw [msbFirst, List.length_cons, ih]

theorem outBits_append (c : Configuration) (p q : List Bit) : outBits c (p ++ q) = outBits c p ++ outBits c q := by
  induction p with
  | nil => rfl
  | cons b p ih => rw [List.cons_append, outBits, outBits, ih, List.append_assoc]

/-- An envelope sends exactly these bits on the wire, start bit first (42_transport.md R70). -/
structure SendsBits (c : Configuration) (e : EnvelopeArgs) (bits : List Bit) : Prop where
  trace : sendTrace c e = sentBits c bits
  lastBit : (lastOut e).testBit 0 = bits.getLastD false
  length : bits.length = 1 + e.cmd.length + (e.payload.map Encoded.length).getD 0

theorem sendsBits_control (c : Configuration) (sub : SubCommand) (n : Nat) (wait : Bool) :
    SendsBits c { cmd := encControl c.aw sub, payload := none, inWords := n, wait := wait }
      (controlBits c (sub.code.testBit 1) (sub.code.testBit 0)) where
  trace := sendTrace_control c rfl rfl
  lastBit := (controlBits_getLastD c sub).symm
  length := by
    rw [controlBits_eq_cons_msbFirst, List.length_cons, msbFirst_length]
    simp [encControl, Nat.add_comm]

theorem sendsBits_addressed (c : Configuration) (opc : Opcode) {addr : Int} (h : 0 ≤ addr) (n : Nat) (wait : Bool) :
    SendsBits c { cmd := encAddressed c.aw c.am opc addr, payload := none, inWords := n, wait := wait }
      (addressedBits c (opc.code.testBit 1) (opc.code.testBit 0) addr) where
  trace := sendTrace_addressed c h rfl rfl
  lastBit := (addressedBits_getLastD c opc h).symm
  length := by
    rw [addressedBits_eq_cons_msbFirst c opc h, List.length_cons, msbFirst_length]
    simp [encAddressed, Nat.add_comm]

/-- DI holds the last bit of a payload, the value's bit 0 (42_transport.md R72). -/
theorem payloadBits_getLastD (c : Configuration) (value : Int) (b : Bit) :
    (payloadBits c value).getLastD b = (encPayload c.w value).value.testBit 0 := by
  obtain ⟨m, hm⟩ := Nat.exists_eq_succ_of_ne_zero c.w_pos.ne'
  have hvalue : (encPayload c.w value).value = (value % 2 ^ c.w).toNat := maskInt_toNat value c.w
  rw [hvalue, payloadBits]
  generalize (value % 2 ^ c.w).toNat = x
  rw [hm]
  exact msbFirst_getLastD x m b

/-- A payload follows the bits of the frame (30_encoding.md R47). -/
theorem SendsBits.payload {c : Configuration} {cmd : Encoded} {bits : List Bit} {n : Nat} {wait : Bool}
    (h : SendsBits c { cmd := cmd, payload := none, inWords := n, wait := wait } bits) (value : Int) :
    SendsBits c { cmd := cmd, payload := some (encPayload c.w value), inWords := n, wait := wait }
      (bits ++ payloadBits c value) where
  trace := by
    have hframe : sendTrace c { cmd := cmd, payload := some (encPayload c.w value), inWords := n, wait := wait } =
        sendTrace c { cmd := cmd, payload := none, inWords := n, wait := wait } ++
          shiftOutTrace c (encPayload c.w value).value (encPayload c.w value).length := by
      simp [sendTrace, payloadTrace]
    have hvalue : (encPayload c.w value).value = (value % 2 ^ c.w).toNat := maskInt_toNat value c.w
    rw [hframe, h.trace, shiftOutTrace_eq_outBits, hvalue, sentBits, sentBits, outBits_append, List.append_assoc]
    rfl
  lastBit := by
    have hne : payloadBits c value ≠ [] :=
      List.ne_nil_of_length_pos (by rw [payloadBits, msbFirst_length]; exact c.w_pos)
    rw [List.getLastD_eq_getLast?, List.getLast?_append_of_ne_nil _ hne, ← List.getLastD_eq_getLast?]
    exact (payloadBits_getLastD c value false).symm
  length := by
    have hlength := h.length
    simp only [Option.map_none, Option.getD_none, Nat.add_zero] at hlength
    simp [hlength, payloadBits, msbFirst_length, encPayload]

/-- The four requests that wait return none and leave WEN as it is (43_control_ops.md R78, R79, 44_addressed_ops.md
R81, R82). -/
theorem result_of_wait {s : State} {op : Op} (h : (s.envelope op).wait = true) :
    (∀ t : State, t.result op = .none) ∧ ∀ wen, wenAfter op wen = wen := by
  cases op with
  | eraseAll => exact ⟨fun _ => rfl, fun _ => rfl⟩
  | writeAll => exact ⟨fun _ => rfl, fun _ => rfl⟩
  | erase => exact ⟨fun _ => rfl, fun _ => rfl⟩
  | write => exact ⟨fun _ => rfl, fun _ => rfl⟩
  | _ => cases h

/-- A reply once given stays. -/
theorem replies_length_le {n : Nat} {s t : State} (h : stepN n s = .next t) : s.replies.length ≤ t.replies.length := by
  induction n generalizing s with
  | zero => cases h; exact le_rfl
  | succ n ih =>
    simp only [stepN] at h
    cases hs : step s with
    | next u =>
      rw [hs] at h
      refine le_trans ?_ (ih h)
      obtain hsame | ⟨-, r, hr⟩ := repliesComeOnlyWithTheReturn s u hs
      · rw [hsame]
      · rw [hr, List.length_append]; omega
    | fault e => rw [hs] at h; cases h
    | refused e => rw [hs] at h; cases h

/-- A run that goes on passes through every state before its end. -/
theorem stepN_split {j k : Nat} {s t : State} (h : stepN (j + k) s = .next t) :
    ∃ u, stepN j s = .next u ∧ stepN k u = .next t := by
  induction j generalizing s with
  | zero => exact ⟨s, rfl, by rwa [Nat.zero_add] at h⟩
  | succ j ih =>
    rw [Nat.succ_add] at h
    simp only [stepN] at h ⊢
    cases hs : step s with
    | next u => rw [hs] at h; exact ih h
    | fault e => rw [hs] at h; cases h
    | refused e => rw [hs] at h; cases h

/-- Until it answers, a request stays in flight and the host's later requests stay where they are. -/
theorem busy_of_replies_length {n : Nat} {s t : State} {op : Op} {pos : Pos} (hs : s.seq = .busy op pos)
    (h : stepN n s = .next t) (hlength : t.replies.length ≤ s.replies.length) :
    t.seq ≠ .idle ∧ t.replies = s.replies ∧ t.requests = s.requests := by
  induction n generalizing s pos with
  | zero => cases h; exact ⟨by simp [hs], rfl, rfl⟩
  | succ n ih =>
    rw [stepN_busy hs] at h
    cases hends : pos.ends with
    | true =>
      obtain ⟨-, r, hr⟩ := s.advance_ends op hends
      have hle := replies_length_le h
      rw [hr, List.length_append, List.length_singleton] at hle
      omega
    | false =>
      obtain ⟨-, -, hreplies, q, hq⟩ := s.advance_continues op hends
      obtain ⟨-, -, -, -, hrequests, -⟩ := s.advance_frame op pos
      obtain ⟨hbusy, hr, hreq⟩ := ih hq h (by rwa [hreplies])
      exact ⟨hbusy, hr.trans hreplies, hreq.trans hrequests⟩

section
variable {s : State} {op : Op} {bits : List Bit}

/-- A request that waits sends its bits and is then at the first poll (42_transport.md R70). -/
theorem stepN_launch_of_wait (hwait : (s.envelope op).wait = true) (hbits : SendsBits s.cfg (s.envelope op) bits)
    (k : Nat) : stepN (1 + 6 * bits.length + k) (s.launch op) = stepN k ((s.sent op).enterReadyWait op) := by
  have henv : (s.sent op).envelope op = s.envelope op := State.envelope_congr op rfl rfl rfl rfl
  have hnext : (s.sent op).nextWord op 0 = (s.sent op).enterReadyWait op := by
    rw [State.nextWord, henv, State.envelope_wait_inWords hwait, if_neg (lt_irrefl 0), State.afterWords, henv,
      if_pos hwait]
  have hsteps : 1 + 6 * bits.length + k =
      1 + 6 * (1 + (s.cfg.aw + 2)) + 6 * (((s.envelope op).payload.map Encoded.length).getD 0) + k := by
    rw [hbits.length, State.envelope_length]; omega
  rw [hsteps, stepN_sending]
  exact congrArg (stepN k) hnext

theorem afterEnvelope_of_wait (hs : s.seq = .idle) (hwait : (s.envelope op).wait = true)
    (hbits : SendsBits s.cfg (s.envelope op) bits) (k : Nat) : s.afterEnvelope op k = s.afterWait bits k := by
  obtain ⟨hresult, hwen⟩ := result_of_wait hwait
  have hin := State.envelope_wait_inWords hwait
  ext1 <;> simp [State.afterEnvelope, State.afterWait, envelopeTrace, wordsTrace, shiftInWords, hs, hin, hwait, hwen,
    hresult, hbits.trace, hbits.lastBit, List.getLastD_nil, -List.getLastD_eq_getLast?, -Nat.testBit_zero]

/-- While no one comes and no limit is opted in, the request never returns (60_exceptions.md R99). -/
theorem hangsAfter_of_wait (hwait : (s.envelope op).wait = true) (hbits : SendsBits s.cfg (s.envelope op) bits)
    (hzeros : NeverReady s.doIn) (hlimit : s.cfg.readyLimit = none) :
    HangsAfter (1 + 6 * bits.length) (s.launch op) := by
  intro n
  by_cases hn : 1 + 6 * bits.length ≤ n
  · obtain ⟨m, rfl⟩ := Nat.exists_eq_add_of_le hn
    obtain ⟨polls, doIn, hrun⟩ := stepN_readyWait_of_neverReady (s := (s.sent op).enterReadyWait op) rfl hlimit hzeros m
    exact ⟨_, (stepN_launch_of_wait hwait hbits m).trans hrun, rfl, rfl, nofun, fun _ => ⟨rfl, rfl, _, _, rfl⟩⟩
  · have hall := stepN_launch_of_wait hwait hbits 0
    rw [Nat.add_zero, show 1 + 6 * bits.length = n + (1 + 6 * bits.length - n) by omega] at hall
    obtain ⟨t, ht, hrest⟩ := stepN_split hall
    have hlength := replies_length_le hrest
    obtain ⟨hbusy, hreplies, hrequests⟩ := busy_of_replies_length (s := s.launch op) rfl ht hlength
    exact ⟨t, ht, hreplies, hrequests, hbusy, fun hle => absurd hle hn⟩

/-- A request that waits does so in one of three ways (42_transport.md R66, R69, 60_exceptions.md R99). -/
theorem sendsAndWaits_launch (hs : s.seq = .idle) (hwait : (s.envelope op).wait = true)
    (hbits : SendsBits s.cfg (s.envelope op) bits) : SendsAndWaits s (s.launch op) bits := by
  refine ⟨fun k hready hallows => ?_, hangsAfter_of_wait hwait hbits, fun limit hlimit hzeros => ?_⟩
  · have hsteps : 3 + 6 * bits.length + 2 * k = envelopeEvents s.cfg (s.envelope op) k - 1 := by
      simp [envelopeEvents, hbits.length, State.envelope_wait_inWords hwait, hwait]; omega
    rw [hsteps, stepN_envelope s op k fun _ => ⟨hready, hallows⟩, afterEnvelope_of_wait hs hwait hbits]
  · have htimeout := stepN_timeout (s := (s.sent op).enterReadyWait op) (op := op) rfl rfl hlimit hzeros
    rw [show 3 + 6 * bits.length + 2 * limit = 1 + 6 * bits.length + (2 * limit + 2) by omega,
      stepN_launch_of_wait hwait hbits, htimeout]
    refine congrArg Host.Outcome.next ?_
    ext1 <;> simp [State.enterReadyWait, State.sent, State.afterTimeout, hs, hbits.trace, hbits.lastBit,
      -List.getLastD_eq_getLast?, -Nat.testBit_zero]

end

end Sys2Proof.Machine

open Sys2Proof Sys2Proof.Machine

/-- Settles O19: with the latch set `erase_all` sends the control frame 10 and waits. -/
theorem eraseAllSendsItsFrameAndWaits : Obligations.EraseAllSendsItsFrameAndWaits := by
  intro s hs
  refine ⟨fun hwen => disabledEraseAndWriteAreSilentNoOps s 0 0 .eraseAll hs hwen (.inl rfl), fun hwen =>
    ⟨_, exec_eq_launch hs rfl rfl (fun _ => hwen) nofun, ?_⟩⟩
  exact sendsAndWaits_launch hs rfl (sendsBits_control s.cfg .eraseAll 0 true)

/-- Settles O20: with the latch set `write_all` sends the control frame 01 and the payload, and waits. -/
theorem writeAllSendsItsFrameAndPayloadAndWaits : Obligations.WriteAllSendsItsFrameAndPayloadAndWaits := by
  intro s value hs
  refine ⟨fun hwen => disabledEraseAndWriteAreSilentNoOps s 0 value (.writeAll value) hs hwen (.inr (.inl rfl)),
    fun hwen => ⟨_, exec_eq_launch hs rfl rfl (fun _ => hwen) nofun, ?_⟩⟩
  exact sendsAndWaits_launch hs rfl ((sendsBits_control s.cfg .writeAll 0 true).payload value)

/-- Settles O21: `erase` past its guards sends the frame of opcode 11 and waits. -/
theorem eraseSendsItsFrameAndWaits : Obligations.EraseSendsItsFrameAndWaits := by
  intro s addr hs hwen hin
  have haddr := ((addressInRange_eq_true_iff _ _).mp hin).1
  refine ⟨_, exec_eq_launch hs rfl rfl (fun _ => hwen) (fun _ => hin), ?_⟩
  exact sendsAndWaits_launch hs rfl (sendsBits_addressed s.cfg .erase haddr 0 true)

/-- Settles O22: `write` past its guards sends the frame of opcode 01 and the payload, and waits. -/
theorem writeSendsItsFrameAndPayloadAndWaits : Obligations.WriteSendsItsFrameAndPayloadAndWaits := by
  intro s addr value hs hwen hin
  have haddr := ((addressInRange_eq_true_iff _ _).mp hin).1
  refine ⟨_, exec_eq_launch hs rfl rfl (fun _ => hwen) (fun _ => hin), ?_⟩
  exact sendsAndWaits_launch hs rfl ((sendsBits_addressed s.cfg .write haddr 0 true).payload value)

end

section
/-!
PROOFS. The sequential read (44_addressed_ops.md R84): its words, and the case of one word.
-/

namespace Sys2Proof.Machine

theorem shiftInWords_length (c : Configuration) (d : DoInput) (k : Nat) : (shiftInWords c d k).length = k := by
  induction k generalizing d with
  | zero => rfl
  | succ k ih => rw [shiftInWords, List.length_cons, ih]

/-- Word k of a sequential read is the shift-in that begins after k whole words. -/
theorem shiftInWord_of_getElem? {c : Configuration} {d : DoInput} {n k : Nat} {w : Word}
    (h : (shiftInWords c d n)[k]? = some w) : w = shiftInWord (d.after (c.w * k)) c.w := by
  induction n generalizing d k with
  | zero => cases h
  | succ n ih =>
    cases k with
    | zero => exact (Option.some.inj h).symm
    | succ k => rw [ih h, ← DoInput.after_add, Nat.mul_succ, Nat.add_comm]

/-- Sample j of a word is its bit `W - 1 - j`, and the word has no other bits (42_transport.md R65). -/
theorem shiftInWord_samples (c : Configuration) (d : DoInput) :
    (shiftInWord d c.w).toNat < 2 ^ c.w ∧
      ∀ j, j < c.w → (shiftInWord d c.w).getLsbD (c.w - 1 - j) = d.nth j := by
  refine ⟨shiftInWord_lt d c.w_le, fun j hj => ?_⟩
  rw [getLsbD_shiftInWord d c.w_le, decide_eq_true (by omega), Bool.true_and, show c.w - 1 - (c.w - 1 - j) = j by omega]

/-- Of a start address in range at least one word is left (90_conflicts.md C6). -/
theorem sequentialWords_one {c : Configuration} {addr : Int} (h : addressInRange c addr = true) :
    sequentialWords c addr 1 = 1 := by
  obtain ⟨-, hhigh⟩ := (addressInRange_eq_true_iff c addr).mp h
  unfold sequentialWords
  omega

end Sys2Proof.Machine

open Sys2Proof Sys2Proof.Machine

/-- Settles O24: the envelope of `read_sequential` sends one frame and shifts in its words. -/
theorem readSequentialShiftsInItsWords : Obligations.ReadSequentialShiftsInItsWords := by
  intro s addr count hs hin hcount
  obtain ⟨haddr, hhigh⟩ := (addressInRange_eq_true_iff _ _).mp hin
  have hrun := stepN_launch_of_read (s := (s.loadA addr).loadN count.toNat) (op := .readSequential)
    (n := sequentialWords s.cfg addr count.toNat) hs haddr rfl rfl
  have hlength := shiftInWords_length s.cfg s.doIn (sequentialWords s.cfg addr count.toNat)
  refine ⟨_, shiftInWords s.cfg s.doIn (sequentialWords s.cfg addr count.toNat),
    exec_eq_launch (i := .readSequential addr count) hs rfl (decide_eq_true hcount) nofun (fun _ => hin), ?_, ?_,
    fun k w hw => ?_⟩
  · rw [hlength, sequentialWords]
    omega
  · rw [hlength]
    exact hrun
  · rw [shiftInWord_of_getElem? hw]
    obtain ⟨hfits, hsamples⟩ := shiftInWord_samples s.cfg (s.doIn.after (s.cfg.w * k))
    exact ⟨hfits, fun j hj => (hsamples j hj).trans (DoInput.nth_after s.doIn _ j)⟩

/-- Settles O25: with one word the two requests have the same envelope. -/
theorem sequentialReadOfOneWordIsARead : Obligations.SequentialReadOfOneWordIsARead := by
  intro s addr hs hin
  have haddr := ((addressInRange_eq_true_iff _ _).mp hin).1
  have hread := stepN_launch_of_read (s := s.loadA addr) (op := .read) (n := 1) hs haddr rfl rfl
  have henv : ((s.loadA addr).loadN 1).envelope .readSequential =
      { cmd := encAddressed s.cfg.aw s.cfg.am .read addr, payload := none, inWords := 1, wait := false } := by
    simp [State.envelope, readSequentialEnvelope, sequentialWords_one hin]
  have hseq := stepN_launch_of_read (s := (s.loadA addr).loadN 1) (op := .readSequential) (n := 1) hs haddr henv rfl
  rw [Nat.mul_one] at hread hseq
  exact ⟨_, _, _, _, shiftInWord s.doIn s.cfg.w, exec_eq_launch (i := .read addr) hs rfl rfl nofun (fun _ => hin),
    exec_eq_launch (i := .readSequential addr 1) hs rfl rfl nofun (fun _ => hin), hread, hseq, hs, hs, rfl, rfl, rfl,
    rfl, rfl, rfl, rfl⟩

end

section
/-!
PROOFS. Every admitted request returns where the outside answers ready, so that an endless host is served for ever
(60_exceptions.md section 8).
-/

namespace Sys2Proof.Machine

/-- An admitted request runs to its return; what it leaves of the outside of DO is the outside some samples later. -/
theorem exec_returns {s : State} {i : Instr} {k : Nat} (hs : s.seq = .idle) (hi : i.wellFormed = true)
    (hready : ReadyAfter s.doIn k) (hallows : LimitAllows s.cfg k) :
    ∃ u n t r m, exec i s = .next u ∧ stepN n u = .next t ∧ t.seq = .idle ∧ t.replies = s.replies ++ [r] ∧
      t.requests = s.requests ∧ t.cfg = s.cfg ∧ t.doIn = s.doIn.after m := by
  obtain ⟨u, hu⟩ := exec_idle hs hi
  obtain ⟨-, ⟨r, rfl⟩ | ⟨op, addr, value, count, rfl, -⟩⟩ := exec_next_cases hu
  · exact ⟨_, 0, _, r, 0, hu, rfl, rfl, rfl, rfl, rfl, rfl⟩
  · have hrun := stepN_envelope (s.loaded addr value count) op k fun _ => ⟨hready, hallows⟩
    exact ⟨_, _, _, _, _, hu, hrun, rfl, rfl, rfl, rfl, rfl⟩

/-- An idle engine with an admitted host that never stops and an outside that is always ready (60_exceptions.md
R107). -/
def Serving (s : State) : Prop :=
  s.seq = .idle ∧ Admitted s.requests ∧ Endless s.requests ∧ AlwaysReady s.doIn

/-- One request of an endless host is served, and the engine is serving again. -/
theorem Serving.next {s : State} (h : Serving s) :
    ∃ k t, stepN k s = .next t ∧ t.replies.length = s.replies.length + 1 ∧ t.cfg = s.cfg ∧ Serving t := by
  obtain ⟨hs, hadmitted, hendless, hready⟩ := h
  obtain ⟨i, rest, hn, hendless'⟩ := hendless.next
  obtain ⟨hi, hadmitted'⟩ := hadmitted.next hn
  have hnow : ReadyAfter s.doIn 0 := ⟨fun _ hj => absurd hj (Nat.not_lt_zero _), hready 0⟩
  obtain ⟨u, n, t, r, m, hexec, hrun, hidle, hreplies, hrequests, hcfg, hdo⟩ :=
    exec_returns (s := { s with requests := rest }) hs hi hnow fun _ _ => Nat.zero_le _
  refine ⟨n + 1, t, ?_, by rw [hreplies, List.length_append]; rfl, hcfg, hidle, hrequests ▸ hadmitted',
    hrequests ▸ hendless', fun j => ?_⟩
  · simp only [stepN, step_idle_some hs hn, hexec, hrun]
  · rw [hdo, DoInput.nth_after]
    exact hready _

/-- An endless host is served any number of times. -/
theorem Serving.run {s : State} (h : Serving s) (n : Nat) :
    ∃ k t, stepN k s = .next t ∧ t.replies.length = s.replies.length + n ∧ t.cfg = s.cfg ∧ Serving t := by
  induction n with
  | zero => exact ⟨0, s, rfl, rfl, rfl, h⟩
  | succ n ih =>
    obtain ⟨j, u, hu, hlength, hcfg, hserving⟩ := ih
    obtain ⟨k, t, ht, hlength', hcfg', hserving'⟩ := hserving.next
    exact ⟨j + k, t, (stepN_trans hu k).trans ht, by omega, hcfg'.trans hcfg, hserving'⟩

end Sys2Proof.Machine

open Sys2Proof Sys2Proof.Machine

/-- Settles O39: a request that is accepted ends at once, or its envelope runs to the end. -/
theorem everyRequestReturnsWhereTheOutsideAnswersReady :
    Obligations.EveryRequestReturnsWhereTheOutsideAnswersReady := by
  intro s i k hs hi hready hallows
  obtain ⟨u, n, t, r, -, hexec, hrun, hidle, hreplies, hrequests, hcfg, -⟩ := exec_returns hs hi hready hallows
  exact ⟨u, n, t, r, hexec, hrun, hidle, hreplies, hrequests, hcfg⟩

/-- Settles O50: the engine serves one request after the other. -/
theorem endlessHostIsServedForEver : Obligations.EndlessHostIsServedForEver := by
  intro s hs hadmitted hendless hready n
  obtain ⟨k, t, hrun, hlength, hcfg, hidle, hadmitted', hendless', -⟩ :=
    Serving.run ⟨hs, hadmitted, hendless, hready⟩ n
  exact ⟨k, t, hrun, hidle, hlength, hcfg, hadmitted', hendless'⟩

end
